-- ==== Sys2Proof/Word.lean ====
section
/-! DEFINITION. The word types of PNGCRC: every register is 32 bits wide (R8, R22), memory is byte-addressed (R8). -/

namespace Sys2Proof

/-- A register value or a command word: 32 bits (R8). -/
abbrev Word := BitVec 32

/-- The data unit of memory M: an 8-bit byte (R8). -/
abbrev Byte := BitVec 8

end Sys2Proof
end

