-- ==== Sys2Proof/Machine/Fields.lean ====
section
/-! DEFINITION. The fields of the command word (30_encoding.md R80). -/

namespace Sys2Proof

/-- OP, bits 7:0 (R80). -/
def cmdOp (w : Word) : BitVec 8 := w.extractLsb' 0 8

/-- INIT, bit 8 (R80). -/
def cmdInit (w : Word) : Bool := w.getLsbD 8

/-- FINAL, bit 9 (R80). -/
def cmdFinal (w : Word) : Bool := w.getLsbD 9

/-- RSV, bits 31:10 (R80). -/
def cmdRsv (w : Word) : BitVec 22 := w.extractLsb' 10 22

end Sys2Proof
end

