-- ==== Sys2Proof/Syntax.lean ====
section
/-! DEFINITION. The commands of PNGCRC: one constructor per row of spec/opcode_table.json (30_encoding.md R81, R82, R83). -/

namespace Sys2Proof

/-- A command, as decoding a command word gives it (R92). No command has an operand field (R90): the four
CRC rows differ in INIT and FINAL only (R82). `badcmd` keeps the reserved word it came from (log 18). -/
inductive Instr where
  /-- NOP, word 0x00000000 (R175). -/
  | nop
  /-- CRC, word 0x00000001: INIT = 0, FINAL = 0 (R82, R106). -/
  | crc
  /-- CRC.I, word 0x00000101: INIT = 1, FINAL = 0 (R82, R106). -/
  | crcI
  /-- CRC.F, word 0x00000201: INIT = 0, FINAL = 1 (R82, R106). -/
  | crcF
  /-- CRC.IF, word 0x00000301: INIT = 1, FINAL = 1 (R82, R106). -/
  | crcIF
  /-- SIGCHK, word 0x00000002 (R122). -/
  | sigchk
  /-- PARSE, word 0x00000003 (R125). -/
  | parse
  /-- EMITSIG, word 0x00000004 (R140). -/
  | emitsig
  /-- EMIT, word 0x00000005 (R142). -/
  | emit
  /-- MKCHUNK, word 0x00000006 (R152). -/
  | mkchunk
  /-- BADCMD: any reserved word (R83, R180). -/
  | badcmd (w : Word)
  deriving DecidableEq, Repr

end Sys2Proof
end

