-- ==== Sys2Proof/WellFormed.lean ====
section
/-! DEFINITION. Which terms of Instr stand for a command word (30_encoding.md R83). -/

namespace Sys2Proof

/-- The three conditions of R83, any of which makes a word reserved. -/
def reservedWord (w : Word) : Bool :=
  cmdRsv w != 0#22 || decide (7 ≤ (cmdOp w).toNat) || (cmdOp w != 1#8 && (cmdInit w || cmdFinal w))

/-- An instruction is well formed when it stands for a command word: a `badcmd` must hold a reserved word (R83),
since every other word is one of the ten legal ones. -/
def Instr.wellFormed : Instr → Bool
  | .nop => true
  | .crc => true
  | .crcI => true
  | .crcF => true
  | .crcIF => true
  | .sigchk => true
  | .parse => true
  | .emitsig => true
  | .emit => true
  | .mkchunk => true
  | .badcmd w => reservedWord w

end Sys2Proof
end

