-- ==== Sys2Proof/Decode.lean ====
section
/-! DEFINITION. Decoding and encoding a command word (30_encoding.md R80 to R83, R92). -/

namespace Sys2Proof

/-- Decoding is a total function from 32-bit words (R92); a reserved word is named by `badcmd`. -/
def decode (w : Word) : Instr :=
  if cmdRsv w ≠ 0#22 then .badcmd w
  else if cmdOp w = 1#8 then
    match cmdInit w, cmdFinal w with
    | false, false => .crc
    | true, false => .crcI
    | false, true => .crcF
    | true, true => .crcIF
  else if cmdInit w || cmdFinal w then .badcmd w
  else
    match (cmdOp w).toNat with
    | 0 => .nop
    | 2 => .sigchk
    | 3 => .parse
    | 4 => .emitsig
    | 5 => .emit
    | 6 => .mkchunk
    | _ => .badcmd w

/-- The command word of an instruction (R81, R82). -/
def encode : Instr → Word
  | .nop => 0x00000000#32
  | .crc => 0x00000001#32
  | .crcI => 0x00000101#32
  | .crcF => 0x00000201#32
  | .crcIF => 0x00000301#32
  | .sigchk => 0x00000002#32
  | .parse => 0x00000003#32
  | .emitsig => 0x00000004#32
  | .emit => 0x00000005#32
  | .mkchunk => 0x00000006#32
  | .badcmd w => w

/-- The command word that a table row's bits stand for: a command is exactly one 32-bit word (R80), whose bits above
`nbits` are 0. -/
def tableWord (nbits w : Nat) : Word := BitVec.ofNat 32 (w % 2 ^ nbits)

/-- What the decoder reads from a table row's bits. There is no command longer than one word (R80), so more than
32 bits are refused. -/
def decodeTableWord (nbits w : Nat) : Option Instr :=
  if nbits ≤ 32 then some (decode (tableWord nbits w)) else none

end Sys2Proof
end

