-- ==== Sys2Proof/Config.lean ====
section
/-! DEFINITION. What the platform fixes (00_scope.md R8), and the free values: what the spec leaves open and no proof can
see. -/

namespace Sys2Proof

/-- A free byte (93_implementation_defined.md "any value"; R65, R75, R222): numbered by the draw counter of the state and
by the address it stands at. No body: nothing can be proved of its value (log 8). -/
opaque Config.freeByte : Nat → Nat → Byte

/-- A free choice among the values a byte may be seen to have (R73: "the old or the new byte"), numbered like a free byte
(log 11). -/
opaque Config.freeChoice : Nat → Nat → Nat

/-- The unspecified contents of a TABLE entry that the builder has not written (R45; log 5). -/
opaque Config.freeTableEntry : Nat → Word

/-- The "last STATUS value read" that `bif` tests before its agent has read STATUS (R93 gives none; log 21), numbered by the
draw counter. -/
opaque Config.freeStatus : Nat → Word

end Sys2Proof

namespace Sys2Proof.Machine

/-- A run of `size` addresses from `base`. -/
structure Region where
  base : Nat
  size : Nat
  deriving DecidableEq, Repr

/-- The parameters of R8 that are values. The model takes them as an argument: they stand in State, no step changes them,
and a statement about every state holds for every platform (log 7). -/
structure Platform where
  /-- `P_MEM`: the addresses that answer (R63), as a list of regions. -/
  memory : List Region
  /-- The regions that are not ordinary memory in the sense of R68: device regions with read side effects. -/
  devices : List Region
  /-- `P_REG_BASE`: the address of the register window (R70). DESIGN CHOICE (log 30): 32 bits wide, like the addresses of an
  agent's port accesses; R8, R22 and R70 give it no width. -/
  regBase : Word
  /-- `P_IRQ_LINE`: the platform's line that the IRQ output drives (R197). -/
  irqLine : Nat
  /-- `P_COHERENT`: whether the Hosts' caches are coherent with the Engine's memory port (R79). -/
  coherent : Bool
  deriving DecidableEq, Repr

end Sys2Proof.Machine
end

