-- ==== Sys2Proof/Machine/RegMap.lean ====
section
/-! DEFINITION. The register map of 10_state.md R22: names, offsets, and the single-bit and code fields of STATUS (R26). -/

namespace Sys2Proof.Machine

/-- The 21 registers of R22, in the order of their offsets. -/
inductive Reg where
  | ID | CTRL | CMD | STATUS
  | SRC_BASE | SRC_LEN | SRC_CUR
  | DST_BASE | DST_LEN | DST_CUR
  | CH_SIZE | CH_TYPE | CH_DADDR | CH_DLEN | CH_CRC
  | CRC_ADDR | CRC_LEN | CRC_ACC | CRC_RES
  | TBL_IDX | TBL_DATA
  deriving DecidableEq, Repr

/-- The offset of a register in the window (R22). -/
def Reg.offset : Reg → Nat
  | .ID => 0x00
  | .CTRL => 0x04
  | .CMD => 0x08
  | .STATUS => 0x0C
  | .SRC_BASE => 0x10
  | .SRC_LEN => 0x14
  | .SRC_CUR => 0x18
  | .DST_BASE => 0x1C
  | .DST_LEN => 0x20
  | .DST_CUR => 0x24
  | .CH_SIZE => 0x28
  | .CH_TYPE => 0x2C
  | .CH_DADDR => 0x30
  | .CH_DLEN => 0x34
  | .CH_CRC => 0x38
  | .CRC_ADDR => 0x3C
  | .CRC_LEN => 0x40
  | .CRC_ACC => 0x44
  | .CRC_RES => 0x48
  | .TBL_IDX => 0x4C
  | .TBL_DATA => 0x50

/-- The registers, in the order of R22. -/
def Reg.all : List Reg :=
  [.ID, .CTRL, .CMD, .STATUS, .SRC_BASE, .SRC_LEN, .SRC_CUR, .DST_BASE, .DST_LEN, .DST_CUR, .CH_SIZE, .CH_TYPE,
    .CH_DADDR, .CH_DLEN, .CH_CRC, .CRC_ADDR, .CRC_LEN, .CRC_ACC, .CRC_RES, .TBL_IDX, .TBL_DATA]

/-- The register at an offset, if one is defined there; the other aligned offsets are reserved (R22, R47). -/
def Reg.atOffset (o : Nat) : Option Reg := Reg.all.find? (fun r => r.offset == o)

/-- The 14 operand registers, offsets 0x10 through 0x44 (R20, R22). -/
def Reg.isOperand (r : Reg) : Bool := decide (0x10 ≤ r.offset) && decide (r.offset ≤ 0x44)

/-- The fields of STATUS (R26), as `bif` names them (30_encoding.md R93). -/
inductive StatusField where
  | BUSY | DONE | OVF | TBL_RDY | STOP | SIGOK | CRCERR | ERRCODE
  deriving DecidableEq, Repr

/-- The value of a field in a STATUS word (R26). -/
def StatusField.value (f : StatusField) (w : Word) : Nat :=
  match f with
  | .BUSY => (w.toNat / 2 ^ 0) % 2
  | .DONE => (w.toNat / 2 ^ 1) % 2
  | .OVF => (w.toNat / 2 ^ 2) % 2
  | .TBL_RDY => (w.toNat / 2 ^ 3) % 2
  | .STOP => (w.toNat / 2 ^ 4) % 2
  | .SIGOK => (w.toNat / 2 ^ 5) % 2
  | .CRCERR => (w.toNat / 2 ^ 6) % 2
  | .ERRCODE => (w.toNat / 2 ^ 8) % 16

/-- The width of an access to the register window; only the 32-bit word is defined (R170, R179). -/
inductive AccessWidth where
  | byte | half | word | double
  deriving DecidableEq, Repr

end Sys2Proof.Machine
end

