-- ==== Sys2Proof/Machine/HostNotation.lean ====
section
/-! DEFINITION. The Host notation of 30_encoding.md R93 and its pseudo-instructions R94: what an agent outside the block may
be told to do. Labels are numbers. -/

namespace Sys2Proof.Machine

/-- One line of an agent's program. The first eight forms are those of R93 (`mem` is the start state: see HostProgram);
the others write out what R7, R79, R170, R179 and R181 let an agent do beside them (log 2). -/
inductive HostLine where
  /-- `wr REG, imm32`: one 32-bit write to REG's offset (R93). -/
  | wr (r : Reg) (v : Word)
  /-- `rd REG`: one 32-bit read of REG's offset (R93). -/
  | rd (r : Reg)
  /-- `cmd MNEM`: one 32-bit write of the command word to 0x08 (R93). -/
  | cmd (i : Instr)
  /-- `wait`: the Host reads STATUS until BUSY = 0 (R93). -/
  | wait
  /-- `ack`: the Host writes STATUS = 0x00000006 (R93). -/
  | ack
  /-- `label:` (R93). -/
  | label (l : Nat)
  /-- `bif FIELD, label`: jump if FIELD of the last STATUS value read is 1 (R93). -/
  | branchIf (f : StatusField) (l : Nat)
  /-- `b label`: an unconditional jump (R93). -/
  | b (l : Nat)
  /-- A read of the register window at any 32-bit platform address (log 30) and width (R170, R179). -/
  | portRead (addr : Word) (w : AccessWidth)
  /-- A write to the register window at any 32-bit platform address (log 30) and width (R170, R179). -/
  | portWrite (addr : Word) (w : AccessWidth) (v : Word)
  /-- A load of one byte of memory M (R7, R67). -/
  | load (a : Word)
  /-- A store of one byte of memory M (R7, R67). -/
  | store (a : Word) (v : Byte)
  /-- The Host cleans its cached copies of the range (R79). -/
  | clean (a n : Word)
  /-- The Host invalidates its cached copies of the range (R79). -/
  | invalidate (a n : Word)
  /-- The Host waits for the interrupt: until the platform's line is high (R181, R197; log 19). -/
  | waitIrq (line : Nat)
  deriving DecidableEq, Repr

/-- A program in Host notation: its `mem` directives (R93) and its lines. -/
structure HostProgram where
  image : List (Nat × List Byte)
  lines : List HostLine
  deriving DecidableEq, Repr

/-- `crc32 A, N` (R94). -/
def HostLine.crc32 (a n : Word) : List HostLine := [.wr .CRC_ADDR a, .wr .CRC_LEN n, .cmd .crcIF, .wait]

/-- `setsrc A, N` (R94). -/
def HostLine.setsrc (a n : Word) : List HostLine := [.wr .SRC_BASE a, .wr .SRC_LEN n]

/-- `split_begin` (R94). -/
def HostLine.splitBegin : List HostLine := [.wr .SRC_CUR 8]

/-- `setdst A, N` (R94). -/
def HostLine.setdst (a n : Word) : List HostLine := [.wr .DST_BASE a, .wr .DST_LEN n, .wr .DST_CUR 0]

/-- `setchunk T, A, N` (R94). -/
def HostLine.setchunk (t a n : Word) : List HostLine := [.wr .CH_TYPE t, .wr .CH_DADDR a, .wr .CH_DLEN n]

/-- `do MNEM` (R94). -/
def HostLine.doCmd (i : Instr) : List HostLine := [.cmd i, .wait]

/-- `isContainer` (R94): the result is STATUS.SIGOK. -/
def HostLine.isContainer : List HostLine := HostLine.doCmd .sigchk

/-- `createChunk T, A, N` (R94). -/
def HostLine.createChunk (t a n : Word) : List HostLine := HostLine.setchunk t a n ++ HostLine.doCmd .mkchunk

end Sys2Proof.Machine
end

