-- ==== Sys2Proof/Machine/State.lean ====
section
/-! DEFINITION. The state of PNGCRC (10_state.md), its stops, and the state after reset (70_reset_and_hazards.md R220). -/

namespace Sys2Proof.Machine

/-- The completion codes of 60_exceptions.md R191. Codes 7 to 15 are never produced (R191), so they are no value here. -/
inductive ErrCode where
  | ok | badcmd | range | capacity | size | overlap | bus
  deriving DecidableEq, Repr

/-- The fields of STATUS (R26). The reserved bits are RAZ/WI (R47), so they have no storage (log 25). -/
structure Status where
  busy : Bool
  done : Bool
  ovf : Bool
  tblRdy : Bool
  stop : Bool
  sigok : Bool
  crcerr : Bool
  errcode : ErrCode
  deriving DecidableEq, Repr

/-- The fields of CTRL (R24); its reserved bits are RAZ/WI (log 25). -/
structure Ctrl where
  irqEn : Bool
  verifyEn : Bool
  deriving DecidableEq, Repr

/-- The 14 operand registers, offsets 0x10 through 0x44 (R20, R22, R35 to R44). -/
structure OperandRegs where
  srcBase : Word
  srcLen : Word
  srcCur : Word
  dstBase : Word
  dstLen : Word
  dstCur : Word
  chSize : Word
  chType : Word
  chDaddr : Word
  chDlen : Word
  chCrc : Word
  crcAddr : Word
  crcLen : Word
  crcAcc : Word
  deriving DecidableEq, Repr

/-- The hidden record of an accepted command (R48, R172): the word, the operand registers and VERIFY_EN, all as they were
at acceptance. -/
structure CmdRecord where
  word : Word
  regs : OperandRegs
  verifyEn : Bool
  deriving DecidableEq, Repr

/-- Memory M (R63): the bytes that differ from what an unlisted address reads as, by rising address (log 6). -/
abbrev Memory := List Host.Cell

/-- An agent outside the block (00_scope.md R7): its program, its place in it, and what it has read last (log 2). -/
structure HostAgent where
  prog : List HostLine
  pc : Nat
  /-- The value its last register read returned. -/
  rdata : Word
  /-- The last STATUS value it read, which `bif` tests (30_encoding.md R93). -/
  lastStatus : Option Word
  /-- The byte its last load returned. -/
  mdata : Byte
  deriving DecidableEq, Repr

/-- An Engine write that an agent may not see yet: the byte it replaced, at an address (R74, R230; log 26). -/
structure Unseen where
  agent : Nat
  addr : Nat
  old : Byte
  deriving DecidableEq, Repr

/-- Who takes a step (R7): the Engine (a completion, or one entry of the table build), an agent (its next line), or the reset
input (R220). -/
inductive Turn where
  | engine
  | agent (k : Nat)
  | reset
  deriving DecidableEq, Repr

/-- Why the machine stops with a fault. The block itself has no trap (R190, R196): its errors are completion codes. -/
inductive Fault where
  /-- Raised by an agent's own load or store at an address outside `P_MEM`: the platform answers with a bus error
  (R8), which is outside the block (log 13). Safe: what the agent does next is not modelled. -/
  | hostBusError
  deriving DecidableEq, Repr

/-- Why a step has no meaning. -/
inductive Refusal where
  /-- An instruction whose arm of `exec` has no meaning yet. Safe. -/
  | notModelled (mnemonic : String)
  /-- Raised by a register access of 8, 16 or 64 bits: only 32-bit accesses are defined (R179, U5). Safe. -/
  | notWordAccess
  /-- Raised by a register access at an offset that is not a multiple of 4 (R179, U5). Safe. -/
  | misalignedAccess
  /-- Raised by a register access outside the 0x100-byte window (R179, U5). Safe. -/
  | outsideWindow
  /-- Raised by a command whose footprint covers memory that is not ordinary, and by a reset during one (R68, U6): "the model
  gives no meaning to that run" (log 12). Safe. -/
  | deviceFootprint
  /-- Raised by an agent's own load or store in a region that is not ordinary memory: its behaviour is the
  platform's (R63; log 13). Safe. -/
  | hostDeviceAccess
  /-- Raised by `bif` or `b` to a label its program does not have: R93 gives it no meaning (log 21). Safe. -/
  | undefinedLabel
  deriving DecidableEq, Repr

/-- Everything the spec gives the machine. -/
structure State where
  /-- CTRL (R24). -/
  ctrl : Ctrl
  /-- STATUS (R26). -/
  status : Status
  /-- The operand registers (R35 to R44). -/
  regs : OperandRegs
  /-- CRC_RES (R44). -/
  crcRes : Word
  /-- TBL_IDX.INDEX (R46). -/
  tblIdx : BitVec 8
  /-- TABLE (R45): the entries written since reset, entry 0 first. Its length is the builder's progress index (R50). -/
  table : List Word
  /-- The latched command record (R48). -/
  inflight : Option CmdRecord
  /-- Memory M (R63), as the Engine's memory port sees it. -/
  mem : Memory
  /-- The platform's parameters (R8). -/
  platform : Platform
  /-- The Hosts and other bus masters (R7); how many is `P_HOSTS` (R204). -/
  agents : List HostAgent
  /-- The next turns, first one first; what happens after the last of them is Step.lean's default (log 1). -/
  turns : List Turn
  /-- Bytes the Hosts have stored that the Engine's memory port may not see yet, the newest first (R73, R79; log 11). -/
  dirty : List Host.Cell
  /-- Addresses that the Engine has written since a store in `dirty`: which of the two lasts is open (R73; log 11). -/
  contested : List Nat
  /-- Old copies of bytes the Engine has since written that the Hosts may still hold (R79; log 11). -/
  stale : List Host.Cell
  /-- The Engine's writes that an agent may not see yet, since it has not observed their completion (R74, R230; log 26). -/
  unseen : List Unseen
  /-- The addresses other agents have accessed during the command in flight in a way that races if they are in its
  footprint (R75; log 10). -/
  raced : List Nat
  /-- How many times free values have been drawn: it numbers the next draw (log 8). -/
  draws : Nat
  deriving DecidableEq, Repr

/-- The reset value of every operand register (R22, R220). -/
def OperandRegs.reset : OperandRegs where
  srcBase := 0
  srcLen := 0
  srcCur := 0
  dstBase := 0
  dstLen := 0
  dstCur := 0
  chSize := 0
  chType := 0
  chDaddr := 0
  chDlen := 0
  chCrc := 0
  crcAddr := 0
  crcLen := 0
  crcAcc := 0xFFFFFFFF#32

/-- The reset value of STATUS: 0x00000001 (R26, R220). -/
def Status.reset : Status where
  busy := true
  done := false
  ovf := false
  tblRdy := false
  stop := false
  sigok := false
  crcerr := false
  errcode := .ok

/-- The platform that State.reset stands on: a DESIGN CHOICE (log 7). -/
def Platform.reset : Platform where
  memory := [⟨0, 2 ^ 32⟩]
  devices := []
  regBase := 0
  irqLine := 0
  coherent := true

/-- An agent with nothing to do: a DESIGN CHOICE (log 2). -/
def HostAgent.idle : HostAgent where
  prog := []
  pc := 0
  rdata := 0
  lastStatus := none
  mdata := 0

/-- The machine right after reset (R220), on the platform of log 7, with one Host that has no program. -/
def State.reset : State where
  ctrl := ⟨false, false⟩
  status := Status.reset
  regs := OperandRegs.reset
  crcRes := 0
  tblIdx := 0
  table := []
  inflight := none
  mem := []
  platform := Platform.reset
  agents := [HostAgent.idle]
  turns := []
  dirty := []
  contested := []
  stale := []
  unseen := []
  raced := []
  draws := 0

end Sys2Proof.Machine
end

