-- ==== Sys2Proof/Machine/Wire.lean ====
section
/-! DEFINITION. The byte orders of the wire format and of the tag register (20_memory.md R60, R61; 30_encoding.md R84 to
R86). -/

namespace Sys2Proof.Machine

/-- The signature SIG, in address order (R84). -/
def signature : List Byte := [0x89#8, 0x50#8, 0x4E#8, 0x47#8, 0x0D#8, 0x0A#8, 0x1A#8, 0x0A#8]

/-- `BE32(b0,b1,b2,b3)`: big-endian decode of 4 bytes (R12, R60). -/
def be32 (b0 b1 b2 b3 : Byte) : Word :=
  (b0.setWidth 32 <<< 24) ||| (b1.setWidth 32 <<< 16) ||| (b2.setWidth 32 <<< 8) ||| b3.setWidth 32

/-- Byte k of a sequence, counted from 0 (R12). The rules only ask for bytes the sequence has. -/
def byteAt (bs : List Byte) (k : Nat) : Byte := bs.getD k 0

/-- `BE32` of the four bytes of a sequence from position k (R60). -/
def be32At (bs : List Byte) (k : Nat) : Word :=
  be32 (byteAt bs k) (byteAt bs (k + 1)) (byteAt bs (k + 2)) (byteAt bs (k + 3))

/-- `BE32enc(v)`: v[31:24], v[23:16], v[15:8], v[7:0] (R12, R60). -/
def be32enc (v : Word) : List Byte :=
  [v.extractLsb' 24 8, v.extractLsb' 16 8, v.extractLsb' 8 8, v.extractLsb' 0 8]

/-- `Tag(v)`: the tag bytes of a tag register in stream order, v[31:24] first (R86). -/
def tagBytes (v : Word) : List Byte :=
  [v.extractLsb' 24 8, v.extractLsb' 16 8, v.extractLsb' 8 8, v.extractLsb' 0 8]

/-- `PackTag(b0,b1,b2,b3) = BE32(b0,b1,b2,b3)` (R86). -/
def packTag (b0 b1 b2 b3 : Byte) : Word := be32 b0 b1 b2 b3

/-- A chunk on the wire: length, type, payload, crc (R85). -/
def chunkBytes (size type crc : Word) (data : List Byte) : List Byte :=
  be32enc size ++ tagBytes type ++ data ++ be32enc crc

end Sys2Proof.Machine
end

