-- ==== Sys2Proof/Machine/Flags.lean ====
section
/-! DEFINITION. The status bits: how they read as a word (10_state.md R24, R26) and who writes them (R27 to R34, R52;
60_exceptions.md R191, R193, R197). -/

namespace Sys2Proof.Machine

/-- The number of a completion code (R191). -/
def ErrCode.code : ErrCode → Nat
  | .ok => 0
  | .badcmd => 1
  | .range => 2
  | .capacity => 3
  | .size => 4
  | .overlap => 5
  | .bus => 6

/-- STATUS as software reads it: the fields at their places, reserved bits 0 (R26, R47). -/
def Status.toWord (t : Status) : Word :=
  BitVec.ofNat 32
    (t.busy.toNat * 2 ^ 0 + t.done.toNat * 2 ^ 1 + t.ovf.toNat * 2 ^ 2 + t.tblRdy.toNat * 2 ^ 3 + t.stop.toNat * 2 ^ 4
      + t.sigok.toNat * 2 ^ 5 + t.crcerr.toNat * 2 ^ 6 + t.errcode.code * 2 ^ 8)

/-- CTRL as software reads it: reserved bits 0 (R24, R47). -/
def Ctrl.toWord (c : Ctrl) : Word := BitVec.ofNat 32 (c.irqEn.toNat * 2 ^ 0 + c.verifyEn.toNat * 2 ^ 1)

/-- A Host write to CTRL: bits 0 and 1 are stored, the reserved bits ignored (R24, R177). -/
def Ctrl.ofWord (v : Word) : Ctrl := ⟨v.getLsbD 0, v.getLsbD 1⟩

/-- Acceptance sets BUSY and clears DONE; nothing else of STATUS changes (R171, R28, R34). -/
def Status.accepted (t : Status) : Status := { t with busy := true, done := false }

/-- Completion sets DONE, clears BUSY and writes ERRCODE (R174, R28, R34). -/
def Status.completed (t : Status) (c : ErrCode) : Status := { t with busy := false, done := true, errcode := c }

/-- The end of the table build sets TBL_RDY and clears BUSY; DONE and ERRCODE stay (R221, R30). -/
def Status.built (t : Status) : Status := { t with busy := false, tblRdy := true }

/-- A dropped write sets OVF (R29, R173). -/
def Status.dropped (t : Status) : Status := { t with ovf := true }

/-- A Host write to STATUS: DONE and OVF are cleared where the written bit is 1, nothing else (R178). -/
def Status.hostWrite (t : Status) (v : Word) : Status :=
  { t with done := t.done && !v.getLsbD 1, ovf := t.ovf && !v.getLsbD 2 }

/-- The result bits that a command writes when it raises an error: SIGOK = 0 for SIGCHK, STOP = 1 and CRCERR = 0 for PARSE,
none for the others (R193, R52). -/
def Status.failClosed (i : Instr) (t : Status) : Status :=
  match i with
  | .nop => t
  | .crc => t
  | .crcI => t
  | .crcF => t
  | .crcIF => t
  | .sigchk => { t with sigok := false }
  | .parse => { t with stop := true, crcerr := false }
  | .emitsig => t
  | .emit => t
  | .mkchunk => t
  | .badcmd _ => t

/-- SIGOK as a SIGCHK that finishes writes it (R32). -/
def Status.withSigok (t : Status) (v : Bool) : Status := { t with sigok := v }

/-- STOP and CRCERR as a PARSE that finishes writes them (R31, R33). -/
def Status.withParse (t : Status) (stop crcerr : Bool) : Status := { t with stop := stop, crcerr := crcerr }

/-- The result of comparing the 8 bytes with SIG: all 8 are compared (R122). -/
def sigokBit (b : List Byte) : Bool := b == signature

/-- The interrupt output: IRQ = CTRL.IRQ_EN AND STATUS.DONE (R197). -/
def State.irq (s : State) : Bool := s.ctrl.irqEn && s.status.done

/-- The level of a line of the platform, as far as the block drives it: IRQ on the line `P_IRQ_LINE` (R197; log 19). -/
def State.lineHigh (s : State) (line : Nat) : Bool := line == s.platform.irqLine && s.irq

end Sys2Proof.Machine
end

