-- ==== Sys2Proof/Machine/Ops.lean ====
section
/-! DEFINITION. The shared operations: reading and writing memory M (20_memory.md), completing a command (42_control.md R174)
and raising an error, which is what PNGCRC has in place of an exception (60_exceptions.md R190, R193, R196). -/

namespace Sys2Proof.Machine

/-! ## The platform's address map -/

def Region.holds (r : Region) (a : Nat) : Bool := decide (r.base ≤ a) && decide (a < r.base + r.size)

/-- Whether an access to the address succeeds: it is in `P_MEM` (R63). -/
def Platform.answers (p : Platform) (a : Nat) : Bool := p.memory.any (fun r => Region.holds r a)

/-- Whether the address is in a region that is not ordinary memory (R68). -/
def Platform.isDevice (p : Platform) (a : Nat) : Bool := p.devices.any (fun r => Region.holds r a)

/-- Whether all n bytes from a answer (R64, R65). -/
def Platform.allAnswer (p : Platform) (a : Nat) : Nat → Bool
  | 0 => true
  | n + 1 => p.answers a && p.allAnswer (a + 1) n

/-- Whether some of the n bytes from a are not ordinary memory (R68). -/
def Platform.anyDevice (p : Platform) (a : Nat) : Nat → Bool
  | 0 => false
  | n + 1 => p.isDevice a || p.anyDevice (a + 1) n

/-! ## Memory M as a canonical list -/

/-- What an address that no cell lists reads as (DESIGN CHOICE, log 6). -/
def Memory.unlisted : Byte := 0

/-- The byte M[a] (R63). -/
def Memory.read : Memory → Nat → Byte
  | [], _ => Memory.unlisted
  | (x, b) :: m, a => if x = a then b else Memory.read m a

/-- M[a] <- v, keeping the addresses rising and listing no byte that an unlisted address reads as (log 6). -/
def Memory.write : Memory → Nat → Byte → Memory
  | [], a, v => if v = Memory.unlisted then [] else [(a, v)]
  | (x, b) :: m, a, v =>
    if a < x then (if v = Memory.unlisted then (x, b) :: m else (a, v) :: (x, b) :: m)
    else if x = a then (if v = Memory.unlisted then m else (a, v) :: m)
    else (x, b) :: Memory.write m a v

/-- The canonical form: addresses strictly rising, and no cell holding what an unlisted address reads as. -/
abbrev Memory.wf (m : Memory) : Prop := m.Pairwise (fun p q => p.1 < q.1) ∧ ∀ p ∈ m, p.2 ≠ Memory.unlisted

/-- M[a+k] <- bs[k] for every k (R65). -/
def Memory.writeBytes (m : Memory) (a : Nat) : List Byte → Memory
  | [] => m
  | b :: bs => Memory.writeBytes (Memory.write m a b) (a + 1) bs

/-- The n bytes from a (R64). -/
def Memory.readBytes (m : Memory) (a : Nat) : Nat → List Byte
  | 0 => []
  | n + 1 => Memory.read m a :: Memory.readBytes m (a + 1) n

/-! ## What the Engine sees and leaves (R73, R75) -/

/-- The bytes a list of cells holds for an address. -/
def cellsAt (cs : List Host.Cell) (a : Nat) : List Byte := (cs.filter (fun c => c.1 == a)).map (fun c => c.2)

/-- One of several values a byte may be seen to have: the first, or one of the others, as the free choice n says (R73). -/
def pickByte (n : Nat) (old : Byte) (others : List Byte) : Byte := (old :: others).getD (n % (others.length + 1)) old

/-- The byte an Engine read returns: any value for a raced byte (R75), the old value or one of those stored where Host stores
are not visible yet (R73), any value where an Engine write has met such a store (log 11), M[a] otherwise (R64). -/
def State.engineByte (s : State) (a : Nat) : Byte :=
  if s.raced.contains a then Config.freeByte s.draws a
  else
    match cellsAt s.dirty a with
    | [] => s.mem.read a
    | d :: ds =>
      if s.contested.contains a then Config.freeByte s.draws a
      else pickByte (Config.freeChoice s.draws a) (s.mem.read a) (d :: ds)

/-- The bytes an Engine read of the range (a, n) returns: s[k] = M[a+k] (R64), with R73 and R75 as in engineByte. -/
def State.engineBytes (s : State) (a : Nat) : Nat → List Byte
  | 0 => []
  | n + 1 => s.engineByte a :: s.engineBytes (a + 1) n

/-- Whether an Engine write to the address leaves it with any value: another agent raced with it (R75), or a Host's store to
it may become visible meanwhile (R73; log 11). -/
def State.unsettled (s : State) (a : Nat) : Bool := s.raced.contains a || !(cellsAt s.dirty a).isEmpty

/-- The bytes an Engine write leaves from a on (R65, R75). -/
def State.landed (s : State) (a : Nat) : List Byte → List Byte
  | [] => []
  | b :: bs => (if s.unsettled a then Config.freeByte s.draws a else b) :: s.landed (a + 1) bs

/-- n free bytes from a (R65, R222: "any value for every byte in the range"). -/
def freeBytes (draw a : Nat) : Nat → List Byte
  | 0 => []
  | n + 1 => Config.freeByte draw a :: freeBytes draw (a + 1) n

/-- The bytes of a range as they stand in M, which an Engine write is about to replace. -/
def State.oldCells (s : State) (a n : Nat) : List Host.Cell := (List.range n).map (fun k => (a + k, s.mem.read (a + k)))

/-- Whether an address is one of the n from a. -/
def inRange (a n x : Nat) : Bool := decide (a ≤ x) && decide (x < a + n)

/-- The old copies the Hosts' caches may still hold after the Engine writes n bytes from a: what M held and what the Hosts had
stored there; none on a coherent platform (R79). DESIGN CHOICE (log 31): what a load that raced with the command returned (R75)
is not among them, as if the caches did not keep it. -/
def State.staleAfter (s : State) (a n : Nat) : List Host.Cell :=
  s.stale ++ (if s.platform.coherent then [] else s.oldCells a n ++ s.dirty.filter (fun c => inRange a n c.1))

/-- What each agent may not see yet after the Engine writes n bytes from a (R74, R230; log 26). -/
def State.unseenAfter (s : State) (a n : Nat) : List Unseen :=
  s.unseen ++ (List.range s.agents.length).flatMap (fun k => (s.oldCells a n).map (fun c => ⟨k, c.1, c.2⟩))

/-- The addresses of the n from a at which an Engine write meets a Host's store that is not visible yet, added to those where
it has before (log 11). -/
def State.contestedAfter (s : State) (a n : Nat) : List Nat :=
  s.contested ++ ((List.range n).map (fun k => a + k)).filter
    (fun x => !(cellsAt s.dirty x).isEmpty && !s.contested.contains x)

/-- The Engine leaves the bytes in M from a on; the Hosts may still hold or see what stood there. -/
def State.engineWrite (s : State) (a : Nat) (bs : List Byte) : State :=
  { s with
    mem := s.mem.writeBytes a bs
    contested := s.contestedAfter a bs.length
    stale := s.staleAfter a bs.length
    unseen := s.unseenAfter a bs.length }

/-- The Engine's write of a range that answers (R65, R75). -/
def State.engineStore (s : State) (a : Nat) (bs : List Byte) : State := s.engineWrite a (s.landed a bs)

/-- Every byte of the range takes an unspecified value (R65, R193, R222). -/
def State.scramble (s : State) (a n : Nat) : State := s.engineWrite a (freeBytes s.draws a n)

/-! ## Completion and errors -/

/-- The completion step (R174): STATUS, the discarded record, and with it the end of the command's races (log 10) and of its
free draws (log 8). -/
def State.complete (s : State) (c : ErrCode) : State :=
  { s with status := s.status.completed c, inflight := none, raced := [], draws := s.draws + 1 }

/-- `finish` (R12): the command completes with ERRCODE = 0. -/
def State.finish (s : State) : State := s.complete .ok

/-- `raise CmdError(code)` (R12, R193): the fail-closed completion. Nothing is saved, no mode changes and no vector is taken
(R196). -/
def State.raise (s : State) (i : Instr) (c : ErrCode) : State :=
  ({ s with status := s.status.failClosed i } : State).complete c

/-- `MemRead(a, n)` (R64) in a command i: its bytes go to k. A byte outside `P_MEM` raises BUS, on the state `onBus` (which
differs from s only in what a failing EMIT leaves in memory); a byte that is not ordinary memory gives the run no
meaning (R68). -/
def State.withRead (s : State) (i : Instr) (onBus : State) (a n : Nat)
    (k : List Byte → Host.Outcome State Fault Refusal) : Host.Outcome State Fault Refusal :=
  if s.platform.anyDevice a n then .refused .deviceFootprint
  else if s.platform.allAnswer a n then k (s.engineBytes a n)
  else .next (onBus.raise i .bus)

/-- `MemWrite(a, n, bs)` (R65) in a command i: the state after the write goes to k. A byte outside `P_MEM` raises BUS, after
which every byte of the range is unspecified; a byte that is not ordinary memory gives the run no meaning (R68). -/
def State.withWrite (s : State) (i : Instr) (a : Nat) (bs : List Byte)
    (k : State → Host.Outcome State Fault Refusal) : Host.Outcome State Fault Refusal :=
  if s.platform.anyDevice a bs.length then .refused .deviceFootprint
  else if s.platform.allAnswer a bs.length then k (s.engineStore a bs)
  else .next ((s.scramble a bs.length).raise i .bus)

end Sys2Proof.Machine
end

