-- ==== Sys2Proof/Machine/Operands.lean ====
section
/-! DEFINITION. The operands of a command: latching (42_control.md R172), the ranges they name (30_encoding.md R90, 20_memory.md
R62), the checks before any access (60_exceptions.md R194) and the footprint (20_memory.md R69). -/

namespace Sys2Proof.Machine

/-- The copy made at acceptance (R172). -/
def State.latch (s : State) (w : Word) : CmdRecord := ⟨w, s.regs, s.ctrl.verifyEn⟩

/-- The operands a command reads: those of the record in flight (R172). Where none is in flight, which no step asks for, those
an acceptance would latch now (log 16). -/
def State.operands (s : State) : CmdRecord := s.inflight.getD (s.latch 0)

/-- `RangeOK(a, n)`: the integer test a + n <= 2^32 (R62). -/
def rangeOK (a n : Nat) : Bool := decide (a + n ≤ 2 ^ 32)

/-- The bytes remaining from the cursor: 0 when it is past the end (R126). -/
def remaining (cur len : Nat) : Nat := if cur ≤ len then len - cur else 0

/-- The address PARSE starts at: SRC_BASE + SRC_CUR (R127). -/
def OperandRegs.srcAddr (r : OperandRegs) : Nat := r.srcBase.toNat + r.srcCur.toNat

/-- The address EMITSIG and EMIT write at: DST_BASE + DST_CUR (R140, R143). -/
def OperandRegs.dstAddr (r : OperandRegs) : Nat := r.dstBase.toNat + r.dstCur.toNat

/-- The number of bytes EMIT writes: 12 + CH_SIZE, an integer (R143). -/
def OperandRegs.emitLength (r : OperandRegs) : Nat := 12 + r.chSize.toNat

/-- Whether n more bytes fit at DST_CUR: the CAPACITY test of R140 and R145. -/
def OperandRegs.fits (r : OperandRegs) (n : Nat) : Bool :=
  decide (r.dstCur.toNat ≤ r.dstLen.toNat) && decide (n ≤ r.dstLen.toNat - r.dstCur.toNat)

/-- Whether EMIT's payload meets its own write range: the OVERLAP test of R143 and R146. -/
def OperandRegs.overlaps (r : OperandRegs) : Bool :=
  decide (0 < r.chSize.toNat) && decide (r.chDaddr.toNat < r.dstAddr + r.emitLength)
    && decide (r.dstAddr < r.chDaddr.toNat + r.chSize.toNat)

/-- EMITSIG's checks before any access, in order (R194). -/
def emitsigCheck (r : OperandRegs) : Option ErrCode :=
  if !rangeOK r.dstBase.toNat r.dstLen.toNat then some .range
  else if !r.fits 8 then some .capacity
  else none

/-- EMIT's checks before any access, in order (R194). -/
def emitCheck (r : OperandRegs) : Option ErrCode :=
  if !rangeOK r.dstBase.toNat r.dstLen.toNat then some .range
  else if !rangeOK r.chDaddr.toNat r.chSize.toNat then some .range
  else if r.chSize ≠ r.chDlen then some .size
  else if !r.fits r.emitLength then some .capacity
  else if r.overlaps then some .overlap
  else none

/-- The write set of a command with its latched registers (R69), as an address and a number of bytes: empty for a command
that writes no memory, and for one that fails a check before its first access. -/
def writeSetOf (i : Instr) (o : OperandRegs) : Nat × Nat :=
  match i with
  | .nop => (0, 0)
  | .crc => (0, 0)
  | .crcI => (0, 0)
  | .crcF => (0, 0)
  | .crcIF => (0, 0)
  | .sigchk => (0, 0)
  | .parse => (0, 0)
  | .emitsig => if (emitsigCheck o).isNone then (o.dstAddr, 8) else (0, 0)
  | .emit => if (emitCheck o).isNone then (o.dstAddr, o.emitLength) else (0, 0)
  | .mkchunk => (0, 0)
  | .badcmd _ => (0, 0)

/-- The write set of the command a record holds (R69). -/
def writeSet (r : CmdRecord) : Nat × Nat := writeSetOf (decode r.word) r.regs

/-- Whether the address is in the write set of the command in flight (R69, R75). -/
def State.inWriteSet (s : State) (a : Nat) : Bool :=
  match s.inflight with
  | some r => inRange (writeSet r).1 (writeSet r).2 a
  | none => false

/-- The ranges PARSE reads (R69): the header when rem ≥ 8; where the header answers and the chunk fits, the crc field; and
with VERIFY_EN, where that answers too, the payload. DEDUCED (log 12): R69 lists the last two "when a chunk is produced", and here
they are in the set once PARSE comes to read them (R127), whether or not that read then fails. -/
def State.parseReadSet (s : State) (r : CmdRecord) : List (Nat × Nat) :=
  let o := r.regs
  if !rangeOK o.srcBase.toNat o.srcLen.toNat then []
  else
    let rem := remaining o.srcCur.toNat o.srcLen.toNat
    if rem < 8 then []
    else
      let size := (be32At (s.engineBytes o.srcAddr 8) 0).toNat
      if !s.platform.allAnswer o.srcAddr 8 then [(o.srcAddr, 8)]
      else if rem - 8 < size + 4 then [(o.srcAddr, 8)]
      else if r.verifyEn && s.platform.allAnswer (o.srcAddr + 8 + size) 4 then
        [(o.srcAddr, 8), (o.srcAddr + 8 + size, 4), (o.srcAddr + 8, size)]
      else [(o.srcAddr, 8), (o.srcAddr + 8 + size, 4)]

/-- The read set of a command (R69), as ranges; empty where a check before the first access fails. -/
def State.readSet (s : State) (i : Instr) (r : CmdRecord) : List (Nat × Nat) :=
  let o := r.regs
  let crcSet := if rangeOK o.crcAddr.toNat o.crcLen.toNat then [(o.crcAddr.toNat, o.crcLen.toNat)] else []
  match i with
  | .nop => []
  | .crc => crcSet
  | .crcI => crcSet
  | .crcF => crcSet
  | .crcIF => crcSet
  | .sigchk =>
    if rangeOK o.srcBase.toNat o.srcLen.toNat && decide (8 ≤ o.srcLen.toNat) then [(o.srcBase.toNat, 8)] else []
  | .parse => s.parseReadSet r
  | .emitsig => []
  | .emit => if (emitCheck o).isNone then [(o.chDaddr.toNat, o.chSize.toNat)] else []
  | .mkchunk => if rangeOK o.chDaddr.toNat o.chDlen.toNat then [(o.chDaddr.toNat, o.chDlen.toNat)] else []
  | .badcmd _ => []

/-- The footprint of a command (R69): the ranges it may read, and the one it may write. -/
def State.footprint (s : State) (i : Instr) (r : CmdRecord) : List (Nat × Nat) :=
  s.readSet i r ++ [writeSetOf i r.regs]

/-- Whether a command's footprint covers memory that is not ordinary: a run to which R68 gives no meaning (log 12). -/
def State.onDevice (s : State) (i : Instr) (r : CmdRecord) : Bool :=
  (s.footprint i r).any (fun p => s.platform.anyDevice p.1 p.2)

end Sys2Proof.Machine
end

