-- ==== Sys2Proof/Machine/Crc.lean ====
section
/-! DEFINITION. The CRC32 engine: its table (40_crc_engine.md R101), step, fold and CRC32 (R103 to R105), and the CRC command in
its four forms (R106). -/

namespace Sys2Proof.Machine

/-- The reflected polynomial (R100). -/
def crcPoly : Word := 0xEDB88320#32

/-- The initial accumulator (R100, R105). -/
def crcSeed : Word := 0xFFFFFFFF#32

/-- One of the 8 iterations that build an entry (R101). -/
def tableIter (v : Word) : Word := if v.getLsbD 0 then (v >>> 1) ^^^ crcPoly else v >>> 1

/-- `TableEntry(i)`: 8 iterations seeded with i (R101). -/
def tableEntry (i : Nat) : Word :=
  tableIter (tableIter (tableIter (tableIter (tableIter (tableIter (tableIter (tableIter (BitVec.ofNat 32 i))))))))

/-- The table the builder makes (R101). -/
def fullTable : List Word := (List.range 256).map tableEntry

/-- `TABLE[i]` (R45): an entry that is not written yet is unspecified (log 5). -/
def tableAt (t : List Word) (i : Nat) : Word := t.getD i (Config.freeTableEntry i)

/-- `CrcStep(acc, b)` (R103), with the table it reads. -/
def crcStep (t : List Word) (acc : Word) (b : Byte) : Word :=
  (acc >>> 8) ^^^ tableAt t ((acc ^^^ b.setWidth 32) &&& 0xFF#32).toNat

/-- `CrcFold(acc, bs)`: first byte first (R104). -/
def crcFold (t : List Word) : Word → List Byte → Word
  | acc, [] => acc
  | acc, b :: bs => crcFold t (crcStep t acc b) bs

/-- `CRC32(bs)` (R105). -/
def crc32 (t : List Word) (bs : List Byte) : Word := ~~~(crcFold t crcSeed bs)

/-- One step of the table builder (R221): it writes the next entry, and in the step that completes the table TBL_RDY is set
and BUSY cleared (R30; log 4). -/
def State.builderStep (s : State) : State :=
  let t := if s.table.length < 256 then s.table ++ [tableEntry s.table.length] else s.table
  { s with table := t, status := if t.length < 256 then s.status else s.status.built }

/-- The results of a CRC command over the bytes it read (R106). -/
def State.crcResult (s : State) (init final : Bool) (bs : List Byte) : State :=
  let acc := crcFold s.table (if init then crcSeed else s.operands.regs.crcAcc) bs
  { s with regs := { s.regs with crcAcc := acc }, crcRes := if final then ~~~acc else s.crcRes }

/-- `CRC(init, final)` (R106). -/
def execCrcForm (i : Instr) (init final : Bool) (s : State) : Host.Outcome State Fault Refusal :=
  let o := s.operands.regs
  if rangeOK o.crcAddr.toNat o.crcLen.toNat then
    s.withRead i s o.crcAddr.toNat o.crcLen.toNat (fun bs => .next (s.crcResult init final bs).finish)
  else .next (s.raise i .range)

/-- CRC: continue from CRC_ACC, leave CRC_RES (R82, R106). -/
def execCrc (s : State) : Host.Outcome State Fault Refusal := execCrcForm .crc false false s

/-- CRC.I: start from 0xFFFFFFFF, leave CRC_RES (R82, R106). -/
def execCrcI (s : State) : Host.Outcome State Fault Refusal := execCrcForm .crcI true false s

/-- CRC.F: continue from CRC_ACC, write CRC_RES (R82, R106). -/
def execCrcF (s : State) : Host.Outcome State Fault Refusal := execCrcForm .crcF false true s

/-- CRC.IF: start from 0xFFFFFFFF, write CRC_RES (R82, R106). -/
def execCrcIF (s : State) : Host.Outcome State Fault Refusal := execCrcForm .crcIF true true s

end Sys2Proof.Machine
end

