-- ==== Sys2Proof/Machine/Port.lean ====
section
/-! DEFINITION. The register port (42_control.md R170 to R179): reads, writes, acceptance, and which accesses are defined. -/

namespace Sys2Proof.Machine

/-- Acceptance of a command word (R171, R172): BUSY, DONE and the latched record, nothing else. -/
def State.accept (s : State) (w : Word) : State :=
  { s with status := s.status.accepted, inflight := some (s.latch w), raced := [] }

/-- A write that is dropped while BUSY = 1 (R173, R195): it sets OVF and changes nothing else. -/
def State.dropWrite (s : State) : State := { s with status := s.status.dropped }

/-- The value of an operand register (R35 to R44); the other registers are no operands. -/
def OperandRegs.get (o : OperandRegs) : Reg → Word
  | .SRC_BASE => o.srcBase
  | .SRC_LEN => o.srcLen
  | .SRC_CUR => o.srcCur
  | .DST_BASE => o.dstBase
  | .DST_LEN => o.dstLen
  | .DST_CUR => o.dstCur
  | .CH_SIZE => o.chSize
  | .CH_TYPE => o.chType
  | .CH_DADDR => o.chDaddr
  | .CH_DLEN => o.chDlen
  | .CH_CRC => o.chCrc
  | .CRC_ADDR => o.crcAddr
  | .CRC_LEN => o.crcLen
  | .CRC_ACC => o.crcAcc
  | .ID | .CTRL | .CMD | .STATUS | .CRC_RES | .TBL_IDX | .TBL_DATA => 0

/-- An operand register takes a value (R177); the other registers are no operands. -/
def OperandRegs.set (o : OperandRegs) (r : Reg) (v : Word) : OperandRegs :=
  match r with
  | .SRC_BASE => { o with srcBase := v }
  | .SRC_LEN => { o with srcLen := v }
  | .SRC_CUR => { o with srcCur := v }
  | .DST_BASE => { o with dstBase := v }
  | .DST_LEN => { o with dstLen := v }
  | .DST_CUR => { o with dstCur := v }
  | .CH_SIZE => { o with chSize := v }
  | .CH_TYPE => { o with chType := v }
  | .CH_DADDR => { o with chDaddr := v }
  | .CH_DLEN => { o with chDlen := v }
  | .CH_CRC => { o with chCrc := v }
  | .CRC_ADDR => { o with crcAddr := v }
  | .CRC_LEN => { o with crcLen := v }
  | .CRC_ACC => { o with crcAcc := v }
  | .ID | .CTRL | .CMD | .STATUS | .CRC_RES | .TBL_IDX | .TBL_DATA => o

/-- The value of ID (R23). -/
def idValue : Word := 0x504E4743#32

/-- TBL_DATA: TABLE[TBL_IDX.INDEX] when TBL_RDY = 1, else 0 (R46). -/
def State.tblData (s : State) : Word := if s.status.tblRdy then tableAt s.table s.tblIdx.toNat else 0

/-- `RegRead` of a register (R176). A read has no side effect on the block. -/
def State.regRead (s : State) (r : Reg) : Word :=
  match r with
  | .ID => idValue
  | .CTRL => s.ctrl.toWord
  | .CMD => 0
  | .STATUS => s.status.toWord
  | .SRC_BASE | .SRC_LEN | .SRC_CUR | .DST_BASE | .DST_LEN | .DST_CUR | .CH_SIZE | .CH_TYPE | .CH_DADDR | .CH_DLEN
  | .CH_CRC | .CRC_ADDR | .CRC_LEN | .CRC_ACC => s.regs.get r
  | .CRC_RES => s.crcRes
  | .TBL_IDX => s.tblIdx.setWidth 32
  | .TBL_DATA => s.tblData

/-- `RegWrite` to a register: CMD (R171, R173), CTRL and TBL_IDX (R177), STATUS (R178), the operand registers (R177, R173), and
the RO registers, which ignore it (R177). -/
def State.regWrite (s : State) (r : Reg) (v : Word) : State :=
  match r with
  | .ID | .CRC_RES | .TBL_DATA => s
  | .CTRL => { s with ctrl := Ctrl.ofWord v }
  | .CMD => if s.status.busy then s.dropWrite else s.accept v
  | .STATUS => { s with status := s.status.hostWrite v }
  | .TBL_IDX => { s with tblIdx := v.setWidth 8 }
  | .SRC_BASE | .SRC_LEN | .SRC_CUR | .DST_BASE | .DST_LEN | .DST_CUR | .CH_SIZE | .CH_TYPE | .CH_DADDR | .CH_DLEN
  | .CH_CRC | .CRC_ADDR | .CRC_LEN | .CRC_ACC =>
    if s.status.busy then s.dropWrite else { s with regs := s.regs.set r v }

/-- `RegRead(o)` at an offset: a reserved offset returns 0 (R47, R176). -/
def State.regReadAt (s : State) (o : Nat) : Word :=
  match Reg.atOffset o with
  | some r => s.regRead r
  | none => 0

/-- `RegWrite(o, v)` at an offset: a reserved offset ignores it and never sets OVF (R47, R173). -/
def State.regWriteAt (s : State) (o : Nat) (v : Word) : State :=
  match Reg.atOffset o with
  | some r => s.regWrite r v
  | none => s

/-- The offset in the window that an access reaches, or why it has none: only aligned 32-bit accesses inside the window are
defined (R170, R179, U5). -/
def portOffset (base : Word) (addr : Nat) (w : AccessWidth) : Except Refusal Nat :=
  if addr < base.toNat then .error .outsideWindow
  else if base.toNat + 0x100 ≤ addr then .error .outsideWindow
  else
    match w with
    | .byte => .error .notWordAccess
    | .half => .error .notWordAccess
    | .double => .error .notWordAccess
    | .word => if (addr - base.toNat) % 4 = 0 then .ok (addr - base.toNat) else .error .misalignedAccess

end Sys2Proof.Machine
end

