-- ==== Sys2Proof/Machine/Agents.lean ====
section
/-! DEFINITION. The steps of the agents outside the block (00_scope.md R7): register transactions, their own accesses to memory M
(20_memory.md R63, R73 to R75, R79), and the Host notation (30_encoding.md R93). -/

namespace Sys2Proof.Machine

/-! ## Memory accesses of an agent -/

/-- A store joins the cells that hold the stores not yet visible, as the newest. -/
def putCell (cs : List Host.Cell) (a : Nat) (v : Byte) : List Host.Cell := (a, v) :: cs.filter (fun c => c != (a, v))

/-- The raced addresses after another agent accesses one while a command is in flight (R75; log 10). -/
def State.raceList (s : State) (a : Nat) : List Nat :=
  if s.inflight.isSome && !s.raced.contains a then a :: s.raced else s.raced

/-- The bytes that Engine writes whose completion agent k has not observed have replaced at an address (R74; log 26). -/
def State.unseenBy (s : State) (k a : Nat) : List Byte :=
  (s.unseen.filter (fun u => u.agent == k && u.addr == a)).map Unseen.old

/-- What a load by agent k returns: any value for a byte of the write set of the command in flight (R75); else M[a] or a byte
that the Engine has replaced there, as long as agent k has not observed the completion (R74, R230) or may hold an old copy on
a platform that is not coherent (R79). DESIGN CHOICE (log 11): the newest store the Hosts have made there and not cleaned, with
certainty until the Engine writes the byte or leaves it raced, whether the caches have evicted it or not; and any value from
then on. -/
def State.hostByte (s : State) (k a : Nat) : Byte :=
  if s.inWriteSet a then Config.freeByte s.draws a
  else
    match cellsAt s.dirty a with
    | d :: _ => if s.contested.contains a then Config.freeByte s.draws a else d
    | [] => pickByte (Config.freeChoice s.draws a) (s.mem.read a) (cellsAt s.stale a ++ s.unseenBy k a)

/-- The state after an agent's load: a byte of the write set is raced by it (R75), and the draw is used up. -/
def State.afterLoad (s : State) (a : Nat) : State :=
  { s with raced := if s.inWriteSet a then s.raceList a else s.raced, draws := s.draws + 1 }

/-- Agent k observes a completion: it sees the Engine's writes from then on (R74, R230). -/
def State.observe (s : State) (k : Nat) : State := { s with unseen := s.unseen.filter (fun u => u.agent != k) }

/-- What a read of STATUS by agent k observes: a completion, if it reads BUSY = 0 or DONE = 1 (R74). -/
def State.statusRead (s : State) (k : Nat) : State := if !s.status.busy || s.status.done then s.observe k else s

/-- The state after an agent's store: in M at once on a coherent platform, else in the Hosts' caches (R73, R79). -/
def State.hostStore (s : State) (a : Nat) (v : Byte) : State :=
  { s with
    mem := if s.platform.coherent then s.mem.write a v else s.mem
    dirty := if s.platform.coherent then s.dirty else putCell s.dirty a v
    contested := s.contested.filter (fun x => x != a)
    raced := s.raceList a }

/-- A byte becomes visible to the Engine: a store to M at this moment (R73, R75). -/
def State.writeBack (s : State) (c : Host.Cell) : State :=
  { s with mem := s.mem.write c.1 c.2, raced := s.raceList c.1 }

/-- What a cleaning leaves in M at an address: the newest store not yet visible, or any value where an Engine write has met it
(R79; log 11). -/
def State.cleanByte (s : State) (a : Nat) : Byte :=
  if s.contested.contains a then Config.freeByte s.draws a
  else
    match cellsAt s.dirty a with
    | d :: _ => d
    | [] => s.mem.read a

/-- What an invalidation leaves in M at an address: a store not yet visible may have reached M before, so the old byte, one of
those stored, or any value where an Engine write has met them: what the Engine would read (R73; log 22). DESIGN CHOICE (log
22): that is any value too at a byte raced before in the sense of log 10, as one stored to during the command in flight is, in its
footprint or not. -/
def State.dropByte (s : State) (a : Nat) : Byte := s.engineByte a

/-- The addresses of a range at which stores are not yet visible. -/
def State.dirtyIn (s : State) (a n : Nat) : List Nat := (s.dirty.filter (fun c => inRange a n c.1)).map (fun c => c.1)

/-- The stores of a range not yet visible are settled: M holds what `f` says there, and the caches hold none of them. DESIGN
CHOICE (log 28): during a command this counts, for a clean and for an invalidate, as an access to each byte with a store
waiting, so such a byte is raced (R75), and the Engine reads any value there. DESIGN CHOICE (log 29): the caches hold single
bytes, so a clean, an invalidate or a write-back never touches a neighbouring byte. -/
def State.settle (s : State) (a n : Nat) (f : Nat → Byte) : State :=
  let t := ((s.dirtyIn a n).map (fun x => (x, f x))).foldl State.writeBack s
  { t with
    dirty := s.dirty.filter (fun c => !inRange a n c.1)
    contested := s.contested.filter (fun x => !inRange a n x)
    draws := s.draws + 1 }

/-- The Hosts clean their cached copies of the range: what they have stored there becomes visible (R79). -/
def State.hostClean (s : State) (a n : Nat) : State := s.settle a n s.cleanByte

/-- Agent k invalidates the cached copies of the range: old copies go, but for those of an Engine write whose completion it
has not observed, which it may fetch again (R79, R230; log 26); and stores not yet visible go (log 22). -/
def State.hostInvalidate (s : State) (k a n : Nat) : State :=
  { s.settle a n s.dropByte with
    stale := s.stale.filter (fun c => !(inRange a n c.1 && (s.unseenBy k c.1).isEmpty)) }

/-- An agent's own access to an address: one that does not answer, or is not ordinary memory, is the platform's (R63; log 13). -/
def State.hostAccess (s : State) (a : Nat) (t : State) : Host.Outcome State Fault Refusal :=
  if s.platform.isDevice a then .refused .hostDeviceAccess
  else if s.platform.answers a then .next t
  else .fault .hostBusError

/-! ## Lines of the Host notation -/

/-- Agent k changes by f. -/
def State.updAgent (s : State) (k : Nat) (f : HostAgent → HostAgent) : State := { s with agents := s.agents.modify k f }

/-- The agent goes on to its next line. -/
def HostAgent.advance (h : HostAgent) : HostAgent := { h with pc := h.pc + 1 }

/-- The agent receives a register value; from STATUS it is "the last STATUS value read" (R93). -/
def HostAgent.gotReg (o : Nat) (v : Word) (h : HostAgent) : HostAgent :=
  { h with rdata := v, lastStatus := if o = Reg.STATUS.offset then some v else h.lastStatus }

/-- The agent receives a memory byte. -/
def HostAgent.gotByte (v : Byte) (h : HostAgent) : HostAgent := { h with mdata := v }

/-- Where a label stands in a program. -/
def findLabel (prog : List HostLine) (l : Nat) : Option Nat := prog.findIdx? (fun x => x == HostLine.label l)

/-- A jump of agent k to a label (R93). -/
def State.jump (s : State) (k : Nat) (h : HostAgent) (l : Nat) : Host.Outcome State Fault Refusal :=
  match findLabel h.prog l with
  | some p => .next (s.updAgent k (fun h => { h with pc := p }))
  | none => .refused .undefinedLabel

/-- The "last STATUS value read" that `bif` tests (R93). DESIGN CHOICE (log 21): before the agent has read STATUS, any value,
drawn anew each time. -/
def State.testedStatus (s : State) (h : HostAgent) : Word := h.lastStatus.getD (Config.freeStatus s.draws)

/-- The state after the test: the draw, if there was one, is used up (log 8). -/
def State.afterTest (s : State) (h : HostAgent) : State :=
  { s with draws := if h.lastStatus.isNone then s.draws + 1 else s.draws }

/-- A register read by agent k at a platform address (R93, R170); of STATUS, it may observe a completion (R74). -/
def State.portReadBy (s : State) (k : Nat) (addr : Nat) (w : AccessWidth) : Host.Outcome State Fault Refusal :=
  match portOffset s.platform.regBase addr w with
  | .error e => .refused e
  | .ok o =>
    .next ((if o = Reg.STATUS.offset then s.statusRead k else s).updAgent k
      (fun h => (h.gotReg o (s.regReadAt o)).advance))

/-- A register write by agent k at a platform address (R93, R170). -/
def State.portWriteBy (s : State) (k : Nat) (addr : Nat) (w : AccessWidth) (v : Word) : Host.Outcome State Fault Refusal :=
  match portOffset s.platform.regBase addr w with
  | .error e => .refused e
  | .ok o => .next ((s.regWriteAt o v).updAgent k HostAgent.advance)

/-- The platform address of a register: `P_REG_BASE + offset` (R93). -/
def State.regAddr (s : State) (r : Reg) : Nat := s.platform.regBase.toNat + r.offset

/-- Agent k, which is h, does a line (R93). -/
def State.runLine (s : State) (k : Nat) (h : HostAgent) (l : HostLine) : Host.Outcome State Fault Refusal :=
  match l with
  | .wr r v => s.portWriteBy k (s.regAddr r) .word v
  | .rd r => s.portReadBy k (s.regAddr r) .word
  | .cmd i => s.portWriteBy k (s.regAddr .CMD) .word (encode i)
  | .ack => s.portWriteBy k (s.regAddr .STATUS) .word 0x00000006#32
  | .portRead addr w => s.portReadBy k addr.toNat w
  | .portWrite addr w v => s.portWriteBy k addr.toNat w v
  | .wait =>
    let t := (s.statusRead k).updAgent k (HostAgent.gotReg Reg.STATUS.offset (s.regRead .STATUS))
    .next (if s.status.busy then t else t.updAgent k HostAgent.advance)
  | .label _ => .next (s.updAgent k HostAgent.advance)
  | .b l => s.jump k h l
  | .branchIf f l =>
    if f.value (s.testedStatus h) = 1 then (s.afterTest h).jump k h l
    else .next ((s.afterTest h).updAgent k HostAgent.advance)
  | .load a =>
    s.hostAccess a.toNat ((s.afterLoad a.toNat).updAgent k (fun h => (h.gotByte (s.hostByte k a.toNat)).advance))
  | .store a v => s.hostAccess a.toNat ((s.hostStore a.toNat v).updAgent k HostAgent.advance)
  | .clean a n => .next ((s.hostClean a.toNat n.toNat).updAgent k HostAgent.advance)
  | .invalidate a n => .next ((s.hostInvalidate k a.toNat n.toNat).updAgent k HostAgent.advance)
  | .waitIrq line => .next (if s.lineHigh line then (s.observe k).updAgent k HostAgent.advance else s)

/-- The line an agent is at. -/
def HostAgent.line (h : HostAgent) : Option HostLine := h.prog[h.pc]?

/-- The step of agent k: its line, or nothing when it has none. -/
def State.agentStep (s : State) (k : Nat) : Host.Outcome State Fault Refusal :=
  match s.agents[k]? with
  | none => .next s
  | some h =>
    match h.line with
    | none => .next s
    | some l => s.runLine k h l

/-- Whether an agent has something to do: a line, which does not wait for an interrupt that is low. -/
def State.agentReady (s : State) (h : HostAgent) : Bool :=
  match h.line with
  | none => false
  | some (.waitIrq line) => s.lineHigh line
  | some _ => true

/-- The first agent that has something to do. -/
def State.firstReady (s : State) : Option Nat := s.agents.findIdx? s.agentReady

/-- The bytes of a `mem` directive that have an address of M: those below 2^32 (log 27). -/
def imageBytes (a : Nat) (bs : List Byte) : List Byte := bs.take (2 ^ 32 - a)

/-- A program in Host notation is given to agent k: its `mem` bytes are in M at the start (R93), and it starts at its first
line. DESIGN CHOICE (log 27): of two `mem` directives that overlap the later one counts, and bytes past the last address are
dropped. -/
def State.loadProgram (s : State) (k : Nat) (p : HostProgram) : State :=
  { s with
    mem := p.image.foldl (fun m c => Memory.writeBytes m c.1 (imageBytes c.1 c.2)) s.mem
    agents := s.agents.modify k (fun h => { h with prog := p.lines, pc := 0 }) }

end Sys2Proof.Machine
end

