-- ==== Sys2Proof/Machine/Control.lean ====
section
/-! DEFINITION. The control commands NOP and BADCMD (42_control.md R175, R180). -/

namespace Sys2Proof.Machine

/-- NOP completes with ERRCODE = 0 and changes nothing else (R175). -/
def execNop (s : State) : Host.Outcome State Fault Refusal := .next s.finish

/-- A reserved word completes with ERRCODE = 1 and writes no result bit (R180). -/
def execBadcmd (w : Word) (s : State) : Host.Outcome State Fault Refusal := .next (s.raise (.badcmd w) .badcmd)

end Sys2Proof.Machine
end

