-- ==== Sys2Proof/Machine/Framer.lean ====
section
/-! DEFINITION. The chunk framer: SIGCHK, PARSE, EMITSIG, EMIT and MKCHUNK (41_chunk_framer.md). -/

namespace Sys2Proof.Machine

/-- SIGCHK finishes with the given SIGOK (R122). -/
def State.sigchkResult (s : State) (v : Bool) : State := ({ s with status := s.status.withSigok v } : State).finish

/-- SIGCHK (R122). -/
def execSigchk (s : State) : Host.Outcome State Fault Refusal :=
  let o := s.operands.regs
  if rangeOK o.srcBase.toNat o.srcLen.toNat then
    if o.srcLen.toNat < 8 then .next (s.sigchkResult false)
    else s.withRead .sigchk s o.srcBase.toNat 8 (fun b => .next (s.sigchkResult (sigokBit b)))
  else .next (s.raise .sigchk .range)

/-- A PARSE that stops without a chunk (R128, R130): STOP = 1, CRCERR = 0, and no other register. -/
def State.parseStop (s : State) : State := ({ s with status := s.status.withParse true false } : State).finish

/-- A PARSE that produces the chunk whose header h and crc it has read (R127 step 7, R131, R132). -/
def State.parseChunk (s : State) (h : List Byte) (crc : Word) (bad : Bool) : State :=
  let o := s.operands.regs
  let size := be32At h 0
  ({ s with
      regs := { s.regs with
        chSize := size
        chType := packTag (byteAt h 4) (byteAt h 5) (byteAt h 6) (byteAt h 7)
        chDaddr := BitVec.ofNat 32 (o.srcAddr + 8)
        chDlen := size
        chCrc := crc
        srcCur := BitVec.ofNat 32 (o.srcCur.toNat + 12 + size.toNat) }
      status := s.status.withParse false bad } : State).finish

/-- PARSE (R125 to R136). -/
def execParse (s : State) : Host.Outcome State Fault Refusal :=
  let r := s.operands
  let o := r.regs
  if rangeOK o.srcBase.toNat o.srcLen.toNat then
    let rem := remaining o.srcCur.toNat o.srcLen.toNat
    if rem < 8 then .next s.parseStop
    else
      s.withRead .parse s o.srcAddr 8 (fun h =>
        let size := (be32At h 0).toNat
        if rem - 8 < size + 4 then .next s.parseStop
        else
          s.withRead .parse s (o.srcAddr + 8 + size) 4 (fun c =>
            let crc := be32At c 0
            if r.verifyEn then
              s.withRead .parse s (o.srcAddr + 8) size (fun d =>
                .next (s.parseChunk h crc (crc32 s.table (h.drop 4 ++ d) != crc)))
            else .next (s.parseChunk h crc false)))
  else .next (s.raise .parse .range)

/-- DST_CUR after n bytes are written at the write cursor (R38, R140, R143). -/
def State.advanceDst (s : State) (n : Nat) : State :=
  { s with regs := { s.regs with dstCur := BitVec.ofNat 32 (s.operands.regs.dstCur.toNat + n) } }

/-- EMITSIG (R140, R141). -/
def execEmitsig (s : State) : Host.Outcome State Fault Refusal :=
  let o := s.operands.regs
  match emitsigCheck o with
  | some c => .next (s.raise .emitsig c)
  | none => s.withWrite .emitsig o.dstAddr signature (fun t => .next (t.advanceDst 8).finish)

/-- EMIT (R142 to R148). After BUS the whole write range is unspecified, whichever access failed (R193; log 9). -/
def execEmit (s : State) : Host.Outcome State Fault Refusal :=
  let o := s.operands.regs
  match emitCheck o with
  | some c => .next (s.raise .emit c)
  | none =>
    if s.platform.anyDevice o.dstAddr o.emitLength then .refused .deviceFootprint
    else
      s.withRead .emit (s.scramble o.dstAddr o.emitLength) o.chDaddr.toNat o.chSize.toNat (fun d =>
        s.withWrite .emit o.dstAddr (chunkBytes o.chSize o.chType o.chCrc d) (fun t =>
          .next (t.advanceDst o.emitLength).finish))

/-- The results of a MKCHUNK over the data it read (R152, R153); the CRC uses an accumulator that is not CRC_ACC (R49). -/
def State.mkchunkResult (s : State) (d : List Byte) : State :=
  let o := s.operands.regs
  { s with regs := { s.regs with chSize := o.chDlen, chCrc := crc32 s.table (tagBytes o.chType ++ d) } }

/-- MKCHUNK (R152). -/
def execMkchunk (s : State) : Host.Outcome State Fault Refusal :=
  let o := s.operands.regs
  if rangeOK o.chDaddr.toNat o.chDlen.toNat then
    s.withRead .mkchunk s o.chDaddr.toNat o.chDlen.toNat (fun d => .next (s.mkchunkResult d).finish)
  else .next (s.raise .mkchunk .range)

end Sys2Proof.Machine
end

