-- ==== Sys2Proof/Machine/Dispatch.lean ====
section
/-! DEFINITION. What each command does at its completion step: one call of its meaning per constructor of Instr. -/

namespace Sys2Proof.Machine

def exec (i : Instr) (s : State) : Host.Outcome State Fault Refusal :=
  match i with
  | .nop => Sys2Proof.Machine.execNop s
  | .crc => Sys2Proof.Machine.execCrc s
  | .crcI => Sys2Proof.Machine.execCrcI s
  | .crcF => Sys2Proof.Machine.execCrcF s
  | .crcIF => Sys2Proof.Machine.execCrcIF s
  | .sigchk => Sys2Proof.Machine.execSigchk s
  | .parse => Sys2Proof.Machine.execParse s
  | .emitsig => Sys2Proof.Machine.execEmitsig s
  | .emit => Sys2Proof.Machine.execEmit s
  | .mkchunk => Sys2Proof.Machine.execMkchunk s
  | .badcmd w => Sys2Proof.Machine.execBadcmd w s

end Sys2Proof.Machine
end

