-- ==== Sys2Proof/Machine/ResetInput.lean ====
section
/-! DEFINITION. The reset input (70_reset_and_hazards.md R220, R222, R223). -/

namespace Sys2Proof.Machine

/-- What a reset does to memory: the write set of an abandoned command becomes unspecified (R222), nothing else (R223). -/
def State.abandon (s : State) : State :=
  match s.inflight with
  | some r => s.scramble (writeSet r).1 (writeSet r).2
  | none => s

/-- Asserting reset: every register takes its reset value, the record is discarded, TABLE becomes unspecified and the builder
starts again (R220). Memory, the platform and the agents are not reset. -/
def State.resetInput (s : State) : State :=
  { s.abandon with
    ctrl := State.reset.ctrl
    status := State.reset.status
    regs := State.reset.regs
    crcRes := State.reset.crcRes
    tblIdx := State.reset.tblIdx
    table := State.reset.table
    inflight := State.reset.inflight
    raced := State.reset.raced
    draws := s.draws + 1 }

/-- The step of the reset input. During a command whose footprint covers memory that is not ordinary it has no meaning (R68,
U6; log 12): the command may have acted on the device already. -/
def State.resetStep (s : State) : Host.Outcome State Fault Refusal :=
  match s.inflight with
  | some r => if s.onDevice (decode r.word) r then .refused .deviceFootprint else .next s.resetInput
  | none => .next s.resetInput

end Sys2Proof.Machine
end

