-- ==== Sys2Proof/Machine/Engine.lean ====
section
/-! DEFINITION. The Engine's step, and who takes a step (00_scope.md R7, 70_reset_and_hazards.md R234). -/

namespace Sys2Proof.Machine

/-- The Engine's step: with a command in flight, its completion (R174); before TBL_RDY = 1, the table builder's step (R221);
otherwise the Engine is idle and has no step to take (R206). -/
def State.engineStep (s : State) : Host.Outcome State Fault Refusal :=
  match s.inflight with
  | some r => exec (decode r.word) s
  | none => if s.status.tblRdy then .next s else .next s.builderStep

/-- One turn (log 1). -/
def State.runTurn (s : State) (t : Turn) : Host.Outcome State Fault Refusal :=
  match t with
  | .engine => s.engineStep
  | .agent k => s.agentStep k
  | .reset => s.resetStep

/-- Who steps when `turns` names no one: the Engine while BUSY = 1, so that every command and the build complete (R174, R234);
else the first agent with something to do; else nothing happens (log 1). -/
def State.defaultStep (s : State) : Host.Outcome State Fault Refusal :=
  if s.status.busy then s.engineStep
  else
    match s.firstReady with
    | some k => s.agentStep k
    | none => .next s

/-- The table built and TBL_RDY = 1, as the builder leaves it (R221): where a command may be accepted. -/
def State.withTableBuilt (s : State) : State :=
  { s with
    table := if s.status.tblRdy then s.table else fullTable
    status := if s.status.tblRdy then s.status else s.status.built }

/-- A command accepted with the Engine to step next: what it takes for the very next step to run the command (log 17). -/
def State.withCommand (s : State) (w : Word) : State :=
  { s.withTableBuilt.accept w with turns := .engine :: s.turns }

end Sys2Proof.Machine
end

