-- ==== Sys2Proof/Machine/Step.lean ====
section
/-! DEFINITION. One step of the machine: the next turn, or the default when none is named (log 1). -/

namespace Sys2Proof.Machine

/-- One step: the first of `turns`, which it uses up; Machine/Engine.lean says what each turn does. -/
def step (s : State) : Host.Outcome State Fault Refusal :=
  match s.turns with
  | [] => s.defaultStep
  | t :: ts => State.runTurn { s with turns := ts } t

/-- The state in which the very next step runs the command word given by a table row's bits (log 17). -/
def State.withFetchWord (s : State) (nbits w : Nat) : State := s.withCommand (tableWord nbits w)

end Sys2Proof.Machine
end

