-- ==== Sys2Proof/Safety.lean ====
section
/-! DEFINITION. What holds along every run of the machine, and the terms in which claims are stated. -/

namespace Sys2Proof.Machine

/-- What the spec says of every moment of a run. -/
structure State.Inv (s : State) : Prop where
  /-- Memory M is in its canonical form (log 6). -/
  memWf : s.mem.wf
  /-- The entries written so far are those of R101. -/
  tablePrefix : s.table = (List.range s.table.length).map tableEntry
  /-- The progress index is 0 to 256 (R50). -/
  tableSize : s.table.length ≤ 256
  /-- TBL_RDY "reads 1 exactly when the table holds the values" (R30). -/
  readyIff : s.status.tblRdy = true ↔ s.table.length = 256
  /-- "BUSY = 1 means the Engine holds an in-flight command or is building the table" (R27). -/
  busyIff : s.status.busy = true ↔ (s.inflight.isSome = true ∨ s.status.tblRdy = false)
  /-- No command runs before the table is built (R45, R102). -/
  buildAlone : s.status.tblRdy = false → s.inflight = none
  /-- The operand registers keep their latched values while a command is in flight (R173, R191). -/
  latched : ∀ r, s.inflight = some r → r.regs = s.regs
  /-- DONE reads 0 from acceptance to completion (R231), and during the build (R221). -/
  busyNotDone : s.status.busy = true → s.status.done = false
  /-- Races are those of the command in flight (R75). -/
  racedInFlight : s.inflight = none → s.raced = []
  /-- On a coherent platform the Hosts' caches hold nothing of their own (R79). -/
  coherentClean : s.platform.coherent = true → s.dirty = [] ∧ s.contested = [] ∧ s.stale = []

/-- TABLE holds the values of R101. -/
def State.TableBuilt (s : State) : Prop := s.table = fullTable

/-- All n bytes from a are ordinary memory that answers (R63, R68). -/
def State.Usable (s : State) (a n : Nat) : Prop :=
  s.platform.allAnswer a n = true ∧ s.platform.anyDevice a n = false

/-- No other agent has raced with the command, and every Host store is visible to the Engine (R73, R75). -/
def State.Quiet (s : State) : Prop := s.raced = [] ∧ s.dirty = []

/-- No command is in flight and the table is built: where the Host may issue a command (R225). -/
def State.Idle (s : State) : Prop := s.inflight = none ∧ s.status.busy = false ∧ s.TableBuilt

/-- The Host issues a command and the Engine completes it, with nothing in between (R171, R174). -/
def State.issue (s : State) (i : Instr) : Host.Outcome State Fault Refusal := exec i (s.accept (encode i))

/-- What no command changes, beside the operand registers, CRC_RES, STATUS and memory: CTRL, TBL_IDX, TABLE, the platform, the
agents and what their caches hold, and who steps next. The command's record is discarded (R174). -/
def State.Frame (s t : State) : Prop :=
  t.ctrl = s.ctrl ∧ t.tblIdx = s.tblIdx ∧ t.table = s.table ∧ t.platform = s.platform ∧ t.agents = s.agents ∧
    t.turns = s.turns ∧ t.dirty = s.dirty ∧ t.inflight = none

/-- Every byte of memory reads as before. -/
def State.SameMemory (s t : State) : Prop := ∀ x, t.mem.read x = s.mem.read x

/-- Every byte of memory outside the n from a reads as before. -/
def State.SameMemoryOutside (s t : State) (a n : Nat) : Prop := ∀ x, x < a ∨ a + n ≤ x → t.mem.read x = s.mem.read x

/-- The bytes bs stand in memory from a on, but for those that another agent raced with or may still overwrite from its
caches (R75, R73). -/
def State.Stored (s t : State) (a : Nat) (bs : List Byte) : Prop :=
  ∀ k, k < bs.length → s.unsettled (a + k) = false → t.mem.read (a + k) = byteAt bs k

/-- k steps that all answer a next state: a safe run of k steps, none of them a fault or a refusal. -/
def State.SafeFor : Nat → State → Prop
  | 0, _ => True
  | k + 1, s => ∃ t, step s = .next t ∧ State.SafeFor k t

end Sys2Proof.Machine
end

