-- ==== Sys2Proof/Safety/Source.lean ====
section
/-! DEFINITION. The operations of the source that commands are composed into (41_chunk_framer.md R120), on byte sequences, and the
Host loops that compose them (R137, R149); and the CRC one bit at a time (40_crc_engine.md R100). -/

namespace Sys2Proof.Machine

/-! ## The CRC without a table -/

/-- One byte enters the reflected CRC bit by bit: XORed in at bit 0, then 8 shifts with the polynomial (R100). -/
def bitSerialStep (acc : Word) (b : Byte) : Word :=
  let v := acc ^^^ b.setWidth 32
  tableIter (tableIter (tableIter (tableIter (tableIter (tableIter (tableIter (tableIter v)))))))

/-- The CRC register after a byte sequence, one bit at a time. -/
def bitSerialFold : Word → List Byte → Word
  | acc, [] => acc
  | acc, b :: bs => bitSerialFold (bitSerialStep acc b) bs

/-! ## A CRC over several ranges -/

/-- The Host names the range of the next CRC command (R43). -/
def State.setCrcRange (s : State) (p : Word × Word) : State :=
  { s with regs := { s.regs with crcAddr := p.1, crcLen := p.2 } }

/-- `crc` over each range but the last, `crc.f` over the last (R107), each required to complete with ERRCODE = 0. -/
def crcRest : List (Word × Word) → State → Option State
  | [], _ => none
  | [p], s =>
    match (s.setCrcRange p).issue .crcF with
    | .next t => if t.status.errcode = .ok then some t else none
    | .fault _ => none
    | .refused _ => none
  | p :: q :: ps, s =>
    match (s.setCrcRange p).issue .crc with
    | .next t => if t.status.errcode = .ok then crcRest (q :: ps) t else none
    | .fault _ => none
    | .refused _ => none

/-- `crc.i` over the first range, then the rest (R107). -/
def crcParts (p : Word × Word) (ps : List (Word × Word)) (s : State) : Option State :=
  match (s.setCrcRange p).issue .crcI with
  | .next t => if t.status.errcode = .ok then crcRest ps t else none
  | .fault _ => none
  | .refused _ => none

/-- The bytes of several ranges, in order. -/
def bytesOf (m : Memory) (ps : List (Word × Word)) : List Byte := ps.flatMap (fun p => m.readBytes p.1.toNat p.2.toNat)

/-! ## split and join on byte sequences -/

/-- A Chunk value (R121). -/
structure Chunk where
  size : Word
  type : Word
  data : List Byte
  crc : Word
  deriving DecidableEq, Repr

/-- A chunk on the wire (R85). -/
def Chunk.bytes (c : Chunk) : List Byte := chunkBytes c.size c.type c.crc c.data

/-- The bytes a chunk takes: 12 + size (R88). -/
def Chunk.length (c : Chunk) : Nat := 12 + c.size.toNat

/-- The source's split loop on the bytes from the scan position, for at most `fuel` passes (R127 to R131). -/
def splitFrom : Nat → List Byte → List Chunk
  | 0, _ => []
  | fuel + 1, bs =>
    if bs.length < 8 then []
    else
      let size := be32At bs 0
      if bs.length - 8 < size.toNat + 4 then []
      else
        { size := size, type := be32At bs 4, data := (bs.drop 8).take size.toNat, crc := be32At bs (8 + size.toNat) }
          :: splitFrom fuel (bs.drop (12 + size.toNat))

/-- `split(buffer)`: the scan starts at byte offset 8 (R137). A pass that finds a chunk consumes bytes, so as many passes as
there are bytes suffice. -/
def splitBytes (bs : List Byte) : List Chunk := splitFrom bs.length (bs.drop 8)

/-- `join(chunks)`: the signature, then each chunk in order (R149). -/
def joinBytes (cs : List Chunk) : List Byte := signature ++ cs.flatMap Chunk.bytes

/-- Σ (12 + size) over chunks (R138, R150). -/
def chunksLength (cs : List Chunk) : Nat := (cs.map Chunk.length).sum

/-! ## The Host loops -/

/-- What the Host records of a chunk: the chunk registers (R120, R121). -/
structure ChunkRegs where
  size : Word
  type : Word
  daddr : Word
  crc : Word
  deriving DecidableEq, Repr

/-- The chunk registers after a PARSE (R121, R137). -/
def State.recordChunk (s : State) : ChunkRegs := ⟨s.regs.chSize, s.regs.chType, s.regs.chDaddr, s.regs.chCrc⟩

/-- The Chunk that recorded registers stand for, with its data in memory M (R121). -/
def ChunkRegs.chunk (m : Memory) (c : ChunkRegs) : Chunk :=
  ⟨c.size, c.type, m.readBytes c.daddr.toNat c.size.toNat, c.crc⟩

/-- The split loop (R137): PARSE until STOP = 1, recording the chunk registers after each PARSE that gives STOP = 0; at most
`fuel` PARSE commands. The state is that after the last of them, none when a PARSE stops the machine. -/
def parseLoop : Nat → State → List ChunkRegs × Option State
  | 0, s => ([], some s)
  | fuel + 1, s =>
    match s.issue .parse with
    | .next t =>
      if t.status.stop then ([], some t)
      else
        let r := parseLoop fuel t
        (t.recordChunk :: r.1, r.2)
    | .fault _ => ([], none)
    | .refused _ => ([], none)

/-- The Host loads a chunk into the chunk registers, its data length equal to its size (R149). -/
def State.loadChunk (s : State) (c : ChunkRegs) : State :=
  { s with regs := { s.regs with chSize := c.size, chType := c.type, chDaddr := c.daddr, chDlen := c.size, chCrc := c.crc } }

/-- The EMITs of the join loop (R149), each required to complete with ERRCODE = 0. -/
def emitLoop : List ChunkRegs → State → Option State
  | [], s => some s
  | c :: cs, s =>
    match (s.loadChunk c).issue .emit with
    | .next t => if t.status.errcode = .ok then emitLoop cs t else none
    | .fault _ => none
    | .refused _ => none

/-- The join loop (R149): DST_CUR = 0, EMITSIG, then the EMITs; every command completes with ERRCODE = 0. -/
def joinLoop (cs : List ChunkRegs) (s : State) : Option State :=
  match ({ s with regs := { s.regs with dstCur := 0 } } : State).issue .emitsig with
  | .next t => if t.status.errcode = .ok then emitLoop cs t else none
  | .fault _ => none
  | .refused _ => none

end Sys2Proof.Machine
end

