-- ==== Sys2Proof/Certificates/Slice0/Obligations.lean ====
section
/-! DEFINITION. The statements for the provers: what the numbered rules of spec/ say the machine does. -/

open Sys2Proof Sys2Proof.Machine

/-! ## Encoding -/

/-- The words of R81 and R82, written out, decode to the commands they stand for, and five reserved words of the vectors V91
to V95 to BADCMD. -/
def Obligations.SpecWordsDecode : Prop :=
  decode 0x00000000#32 = .nop ∧ decode 0x00000001#32 = .crc ∧ decode 0x00000101#32 = .crcI ∧
  decode 0x00000201#32 = .crcF ∧ decode 0x00000301#32 = .crcIF ∧ decode 0x00000002#32 = .sigchk ∧
  decode 0x00000003#32 = .parse ∧ decode 0x00000004#32 = .emitsig ∧ decode 0x00000005#32 = .emit ∧
  decode 0x00000006#32 = .mkchunk ∧ decode 0x00000007#32 = .badcmd 0x00000007#32 ∧
  decode 0x00000102#32 = .badcmd 0x00000102#32 ∧ decode 0x00000400#32 = .badcmd 0x00000400#32 ∧
  decode 0x00000701#32 = .badcmd 0x00000701#32 ∧ decode 0xFFFFFFFF#32 = .badcmd 0xFFFFFFFF#32

/-- Decoding the word of a well-formed instruction gives it back. -/
def Obligations.DecodeOfEncode : Prop := ∀ i : Instr, i.wellFormed = true → decode (encode i) = i

/-- Every word is the word of the well-formed instruction it decodes to: no bit of a word is dropped (R92). -/
def Obligations.EncodeOfDecode : Prop := ∀ w : Word, encode (decode w) = w ∧ (decode w).wellFormed = true

/-- R83: the three conditions, the ten legal words, and what a reserved word does when it is written to CMD with BUSY = 0: it is
accepted, and its completion writes ERRCODE = 1, DONE and BUSY and nothing else (R180). -/
def Obligations.ReservedWordsCompleteWithBadcmd : Prop :=
  ∀ w : Word,
    ((w.extractLsb' 10 22 ≠ 0#22 ∨ 7 ≤ (w.extractLsb' 0 8).toNat ∨
        (w.extractLsb' 0 8 ≠ 1#8 ∧ (w.getLsbD 8 = true ∨ w.getLsbD 9 = true))) ↔ decode w = .badcmd w) ∧
    (decode w = .badcmd w ↔
      w ∉ [0x00000000#32, 0x00000001#32, 0x00000101#32, 0x00000201#32, 0x00000301#32, 0x00000002#32, 0x00000003#32,
        0x00000004#32, 0x00000005#32, 0x00000006#32]) ∧
    (∀ s : State, ∃ t, exec (.badcmd w) s = .next t ∧
      t.status = { s.status with busy := false, done := true, errcode := .badcmd } ∧ t.regs = s.regs ∧
      t.crcRes = s.crcRes ∧ s.Frame t ∧ s.SameMemory t) ∧
    (∀ s : State, decode w = .badcmd w → s.status.busy = false →
      ∃ t, (s.regWrite .CMD w).engineStep = .next t ∧
        t.status = { s.status with busy := false, done := true, errcode := .badcmd } ∧ t.regs = s.regs ∧
        t.crcRes = s.crcRes ∧ s.Frame t ∧ s.SameMemory t)

/-! ## The step and the invariant -/

/-- The Engine's turn, and the default turn while BUSY = 1, run the decoded command of the record in flight; and the word
that `withFetchWord` places is the very next to run (log 1, log 17). -/
def Obligations.StepRunsTheDecodedCommand : Prop :=
  (∀ (s : State) (r : CmdRecord) (ts : List Turn), s.turns = .engine :: ts → s.inflight = some r →
    step s = exec (decode r.word) { s with turns := ts }) ∧
  (∀ (s : State) (r : CmdRecord), s.turns = [] → s.status.busy = true → s.inflight = some r →
    step s = exec (decode r.word) s) ∧
  (∀ (s : State) (nbits w : Nat), step (s.withFetchWord nbits w) =
    exec (decode (BitVec.ofNat 32 (w % 2 ^ nbits))) { s.withFetchWord nbits w with turns := s.turns })

/-- Every step keeps the invariant, whoever takes it. -/
def Obligations.StepKeepsInv : Prop := ∀ s t : State, s.Inv → step s = .next t → t.Inv

/-- The invariant holds after reset. -/
def Obligations.ResetMeetsInv : Prop := State.reset.Inv

/-- With a command in flight and no device in the memory map, the Engine's step completes it: BUSY = 0, DONE = 1, the record
discarded (R174; every command completes). Whatever the operands, no command faults. -/
def Obligations.EveryCommandCompletes : Prop :=
  ∀ (s : State), s.Inv → s.platform.devices = [] → s.turns = [] → s.inflight.isSome = true →
    ∃ t, step s = .next t ∧ t.inflight = none ∧ t.status.busy = false ∧ t.status.done = true ∧
      t.status.ovf = s.status.ovf ∧ t.status.tblRdy = s.status.tblRdy ∧ t.agents = s.agents ∧ t.ctrl = s.ctrl

/-- A command stops without a next state only by the refusal of R68, and exactly when a range of its read set or its write set
holds a byte that is not ordinary memory; it never faults. The sets are those of R69, but for the model's deduction (log 12) that
PARSE's crc field is in the read set once the header answers and the chunk fits, and its payload, with VERIFY_EN = 1, once the crc
field answers too, where R69 says "when a chunk is produced". -/
def Obligations.CommandsStopOnlyOnDevices : Prop :=
  ∀ (i : Instr) (s : State),
    (∀ f, exec i s ≠ .fault f) ∧
    (∀ e, exec i s = .refused e ↔ e = .deviceFootprint ∧
      ∃ p ∈ s.footprint i s.operands, s.platform.anyDevice p.1 p.2 = true)

/-- R68, U6: where a command's reads or writes, once its checks pass, cover memory that is not ordinary, it is refused; and so
is a reset during a command whose footprint covers such memory (log 12). -/
def Obligations.DeviceFootprintIsRefused : Prop :=
  ∀ s : State,
    let o := s.operands.regs
    (∀ i ∈ [Instr.crc, .crcI, .crcF, .crcIF], o.crcAddr.toNat + o.crcLen.toNat ≤ 2 ^ 32 →
      s.platform.anyDevice o.crcAddr.toNat o.crcLen.toNat = true → exec i s = .refused .deviceFootprint) ∧
    (o.srcBase.toNat + o.srcLen.toNat ≤ 2 ^ 32 → 8 ≤ o.srcLen.toNat →
      s.platform.anyDevice o.srcBase.toNat 8 = true → exec .sigchk s = .refused .deviceFootprint) ∧
    (o.srcBase.toNat + o.srcLen.toNat ≤ 2 ^ 32 → o.srcCur.toNat + 8 ≤ o.srcLen.toNat →
      let at0 := o.srcBase.toNat + o.srcCur.toNat
      let size := (be32 (s.engineByte at0) (s.engineByte (at0 + 1)) (s.engineByte (at0 + 2)) (s.engineByte (at0 + 3))).toNat
      (s.platform.anyDevice at0 8 = true → exec .parse s = .refused .deviceFootprint) ∧
      (s.Usable at0 8 → o.srcCur.toNat + 12 + size ≤ o.srcLen.toNat →
        (s.platform.anyDevice (at0 + 8 + size) 4 = true → exec .parse s = .refused .deviceFootprint) ∧
        (s.Usable (at0 + 8 + size) 4 → s.operands.verifyEn = true → s.platform.anyDevice (at0 + 8) size = true →
          exec .parse s = .refused .deviceFootprint))) ∧
    (o.dstBase.toNat + o.dstLen.toNat ≤ 2 ^ 32 → o.dstCur.toNat + 8 ≤ o.dstLen.toNat →
      s.platform.anyDevice (o.dstBase.toNat + o.dstCur.toNat) 8 = true → exec .emitsig s = .refused .deviceFootprint) ∧
    (emitCheck o = none →
      (s.platform.anyDevice (o.dstBase.toNat + o.dstCur.toNat) (12 + o.chSize.toNat) = true ∨
        s.platform.anyDevice o.chDaddr.toNat o.chSize.toNat = true) → exec .emit s = .refused .deviceFootprint) ∧
    (o.chDaddr.toNat + o.chDlen.toNat ≤ 2 ^ 32 →
      s.platform.anyDevice o.chDaddr.toNat o.chDlen.toNat = true → exec .mkchunk s = .refused .deviceFootprint) ∧
    (∀ (r : CmdRecord) (ts : List Turn), s.turns = .reset :: ts → s.inflight = some r →
      (∃ p ∈ s.footprint (decode r.word) r, s.platform.anyDevice p.1 p.2 = true) → step s = .refused .deviceFootprint)

/-! ## Whole-machine rules over all commands -/

/-- R193: what a command that ends with an error code writes, and what it leaves in memory. -/
def Obligations.ErrorsAreFailClosed : Prop :=
  ∀ (i : Instr) (s t : State), exec i s = .next t → t.status.errcode ≠ .ok →
    let o := s.operands.regs
    t.regs = s.regs ∧ t.crcRes = s.crcRes ∧ s.Frame t ∧
    t.status = { s.status with
      busy := false, done := true, errcode := t.status.errcode
      sigok := if i = .sigchk then false else s.status.sigok
      stop := if i = .parse then true else s.status.stop
      crcerr := if i = .parse then false else s.status.crcerr } ∧
    (t.status.errcode ≠ .bus → s.SameMemory t) ∧
    (i ≠ .emitsig → i ≠ .emit → s.SameMemory t) ∧
    (i = .emitsig → s.SameMemoryOutside t (o.dstBase.toNat + o.dstCur.toNat) 8) ∧
    (i = .emit → s.SameMemoryOutside t (o.dstBase.toNat + o.dstCur.toNat) (12 + o.chSize.toNat)) ∧
    (s.mem.wf → t.status.errcode = .bus → i = .emitsig → ∀ k, k < 8 →
      t.mem.read (o.dstBase.toNat + o.dstCur.toNat + k) =
        Config.freeByte s.draws (o.dstBase.toNat + o.dstCur.toNat + k)) ∧
    (s.mem.wf → t.status.errcode = .bus → i = .emit → ∀ k, k < 12 + o.chSize.toNat →
      t.mem.read (o.dstBase.toNat + o.dstCur.toNat + k) =
        Config.freeByte s.draws (o.dstBase.toNat + o.dstCur.toNat + k))

/-- R52: which commands write which result bits, and what they hold after an error; every completion sets DONE, and none writes
OVF or TBL_RDY. -/
def Obligations.ResultBitsHaveTheirWriters : Prop :=
  ∀ (i : Instr) (s t : State), exec i s = .next t →
    (i ≠ .parse → t.status.stop = s.status.stop ∧ t.status.crcerr = s.status.crcerr) ∧
    (i ≠ .sigchk → t.status.sigok = s.status.sigok) ∧
    t.status.busy = false ∧ t.status.done = true ∧ t.status.ovf = s.status.ovf ∧ t.status.tblRdy = s.status.tblRdy ∧
    (i = .nop → t.status.errcode = .ok) ∧
    (∀ w, i = .badcmd w → t.status.errcode = .badcmd) ∧
    ((∀ w, i ≠ .badcmd w) → t.status.errcode ≠ .badcmd) ∧
    (t.status.errcode ≠ .ok → (i = .sigchk → t.status.sigok = false) ∧
      (i = .parse → t.status.stop = true ∧ t.status.crcerr = false))

/-- R90: the registers each command writes are those of the table; all others keep their values, CRC_ACC and CRC_RES among
them for every command but CRC (R49); and only EMITSIG and EMIT touch what the Hosts may hold or see of memory. -/
def Obligations.CommandsWriteOnlyTheirRegisters : Prop :=
  ∀ (i : Instr) (s t : State), exec i s = .next t →
    s.Frame t ∧
    t.regs.srcBase = s.regs.srcBase ∧ t.regs.srcLen = s.regs.srcLen ∧ t.regs.dstBase = s.regs.dstBase ∧
    t.regs.dstLen = s.regs.dstLen ∧ t.regs.crcAddr = s.regs.crcAddr ∧ t.regs.crcLen = s.regs.crcLen ∧
    (i ≠ .parse → t.regs.srcCur = s.regs.srcCur ∧ t.regs.chType = s.regs.chType ∧
      t.regs.chDaddr = s.regs.chDaddr ∧ t.regs.chDlen = s.regs.chDlen) ∧
    (i ≠ .parse → i ≠ .mkchunk → t.regs.chSize = s.regs.chSize ∧ t.regs.chCrc = s.regs.chCrc) ∧
    (i ≠ .emitsig → i ≠ .emit → t.regs.dstCur = s.regs.dstCur) ∧
    (i ∉ [Instr.crc, .crcI, .crcF, .crcIF] → t.regs.crcAcc = s.regs.crcAcc) ∧
    (i ∉ [Instr.crcF, .crcIF] → t.crcRes = s.crcRes) ∧
    (i ≠ .emitsig → i ≠ .emit → t.contested = s.contested ∧ t.stale = s.stale ∧ t.unseen = s.unseen)

/-- R69: a command in flight writes no byte of memory outside its write set. -/
def Obligations.CommandsWriteOnlyTheirWriteSet : Prop :=
  ∀ (s t : State) (r : CmdRecord), s.inflight = some r → exec (decode r.word) s = .next t →
    s.SameMemoryOutside t (writeSet r).1 (writeSet r).2

/-- R69: the registers and status a command leaves depend on memory only through its read set; PARSE's is that of log 12. -/
def Obligations.CommandsReadOnlyTheirReadSet : Prop :=
  ∀ (i : Instr) (s : State) (m : Memory),
    (∀ p ∈ s.readSet i s.operands, ∀ x, p.1 ≤ x → x < p.1 + p.2 → m.read x = s.mem.read x) →
    (∀ t, exec i s = .next t → ∃ u, exec i { s with mem := m } = .next u ∧
      u.regs = t.regs ∧ u.crcRes = t.crcRes ∧ u.status = t.status) ∧
    (∀ e, exec i s = .refused e → exec i { s with mem := m } = .refused e)

/-- R35, R141: the source bytes PARSE and SIGCHK may read lie inside the source buffer, "never a source byte at an offset ≥
SRC_LEN", and the bytes EMITSIG and EMIT may write lie inside the destination buffer. -/
def Obligations.FootprintsStayInTheirBuffers : Prop :=
  (∀ (s : State) (i : Instr), i = .sigchk ∨ i = .parse → ∀ p ∈ s.readSet i s.operands,
    s.operands.regs.srcBase.toNat ≤ p.1 ∧
      p.1 + p.2 ≤ s.operands.regs.srcBase.toNat + s.operands.regs.srcLen.toNat) ∧
  (∀ r : CmdRecord, 0 < (writeSet r).2 → r.regs.dstBase.toNat ≤ (writeSet r).1 ∧
    (writeSet r).1 + (writeSet r).2 ≤ r.regs.dstBase.toNat + r.regs.dstLen.toNat ∧
    r.regs.dstBase.toNat + r.regs.dstLen.toNat ≤ 2 ^ 32)

/-- R172, R173: no register write by the Host while a command is in flight changes what the command does: its registers, its
result bits and code, and memory come out the same. -/
def Obligations.NoWriteChangesACommandMidway : Prop :=
  ∀ (s t : State) (c : CmdRecord) (r : Reg) (v : Word), s.status.busy = true → s.inflight = some c →
    exec (decode c.word) s = .next t →
    ∃ u, exec (decode c.word) (s.regWrite r v) = .next u ∧ u.regs = t.regs ∧ u.crcRes = t.crcRes ∧ u.mem = t.mem ∧
      u.status = { t.status with ovf := u.status.ovf }

/-! ## Reset and the table -/

/-- The reset values of R22, in the order of the table. -/
def resetValue : Reg → Word
  | .ID => 0x504E4743#32
  | .CTRL => 0
  | .CMD => 0
  | .STATUS => 0x00000001#32
  | .SRC_BASE => 0
  | .SRC_LEN => 0
  | .SRC_CUR => 0
  | .DST_BASE => 0
  | .DST_LEN => 0
  | .DST_CUR => 0
  | .CH_SIZE => 0
  | .CH_TYPE => 0
  | .CH_DADDR => 0
  | .CH_DLEN => 0
  | .CH_CRC => 0
  | .CRC_ADDR => 0
  | .CRC_LEN => 0
  | .CRC_ACC => 0xFFFFFFFF#32
  | .CRC_RES => 0
  | .TBL_IDX => 0
  | .TBL_DATA => 0

/-- R220, R223: asserting reset in any state puts every register at its reset value in that step, discards the record, makes
TABLE unspecified, sets the builder's progress index to 0 and drives IRQ low; memory outside the write set of an abandoned
command keeps its bytes. (The run has no meaning where a command in flight has a device in its footprint, R68:
DeviceFootprintIsRefused.) -/
def Obligations.ResetGivesTheResetValues : Prop :=
  ∀ (s : State) (ts : List Turn), s.turns = .reset :: ts →
    (∀ r, s.inflight = some r → s.onDevice (decode r.word) r = false) →
    ∃ t, step s = .next t ∧ (∀ r : Reg, t.regRead r = resetValue r) ∧ t.inflight = none ∧ t.table.length = 0 ∧
      (∀ k, tableAt t.table k = Config.freeTableEntry k) ∧ t.irq = false ∧ t.agents = s.agents ∧
      t.platform = s.platform ∧ (∀ x, s.inWriteSet x = false → t.mem.read x = s.mem.read x)

/-- R222: a reset while a command is in flight abandons it: it does not complete, no register result commits, DONE is not set, the
bytes of its write set are unspecified, and no other byte changes; a command with no write set leaves memory alone. (Where its
footprint holds a device, the run has no meaning, R68: DeviceFootprintIsRefused.) No other
step of a state that meets the invariant cancels a command: it stays in flight or it completes. -/
def Obligations.ResetAbandonsTheCommand : Prop :=
  (∀ (s : State) (r : CmdRecord) (ts : List Turn), s.turns = .reset :: ts → s.inflight = some r → s.mem.wf →
    s.onDevice (decode r.word) r = false →
    ∃ t, step s = .next t ∧ t.inflight = none ∧ t.status.done = false ∧ t.regs = State.reset.regs ∧
      t.crcRes = State.reset.crcRes ∧
      (∀ x, s.inWriteSet x = true → t.mem.read x = Config.freeByte s.draws x) ∧
      (∀ x, s.inWriteSet x = false → t.mem.read x = s.mem.read x) ∧
      (decode r.word ≠ .emitsig → decode r.word ≠ .emit → s.SameMemory t)) ∧
  (∀ (s t : State) (r : CmdRecord), s.Inv → s.inflight = some r → (∀ ts, s.turns ≠ .reset :: ts) → step s = .next t →
    t.inflight = some r ∨ (t.inflight = none ∧ t.status.done = true ∧ t.status.busy = false))

/-- R221: left alone after reset, the builder finishes, with every entry that of R101; TBL_RDY <- 1 and BUSY <- 0 in its last
step and not before; DONE and ERRCODE stay, and so does everything else. -/
def Obligations.TableBuildFinishes : Prop :=
  ∀ (s : State), s.Inv → s.turns = [] → s.status.tblRdy = false →
    (∀ k, k < 256 - s.table.length → ∃ t, Host.Core.run Sys2Proof.core k s = .next t ∧
      t.status = s.status ∧ t.table.length = s.table.length + k) ∧
    Host.Core.run Sys2Proof.core (256 - s.table.length) s =
      .next { s with table := (List.range 256).map tableEntry, status := { s.status with busy := false, tblRdy := true } }

/-- R46: TBL_DATA is TABLE[TBL_IDX.INDEX], the value of R101, once TBL_RDY = 1, and 0 before. -/
def Obligations.TableReadsBack : Prop :=
  ∀ s : State, s.Inv →
    (s.status.tblRdy = true → ∀ v : Word, (s.regWrite .TBL_IDX v).regRead .TBL_DATA = tableEntry (v.toNat % 256)) ∧
    (s.status.tblRdy = false → s.regRead .TBL_DATA = 0) ∧
    (∀ v : Word, (s.regWrite .TBL_IDX v).regRead .TBL_IDX = BitVec.ofNat 32 (v.toNat % 256))

/-! ## The register port -/

/-- R171: with BUSY = 0, a write to CMD is accepted whatever the word: BUSY = 1, DONE = 0, the record is latched, and every other
register, field of STATUS and byte of memory is unchanged. -/
def Obligations.CommandIsAccepted : Prop :=
  ∀ (s : State) (w : Word), s.status.busy = false →
    let t := s.regWrite .CMD w
    t.status = { s.status with busy := true, done := false } ∧
    t.inflight = some { word := w, regs := s.regs, verifyEn := s.ctrl.verifyEn } ∧
    (∀ r : Reg, r ≠ .STATUS → t.regRead r = s.regRead r) ∧ s.SameMemory t ∧
    t.ctrl = s.ctrl ∧ t.table = s.table ∧ t.agents = s.agents ∧ t.platform = s.platform ∧ t.turns = s.turns

/-- R173: while BUSY = 1, a write to CMD or to a register at 0x10 through 0x44 changes nothing but OVF, which it sets; CTRL,
STATUS and TBL_IDX take effect; ID, CRC_RES, TBL_DATA and the reserved offsets ignore a write at every time. -/
def Obligations.BusyWritesAreDropped : Prop :=
  (∀ (s : State) (r : Reg) (v : Word), s.status.busy = true → (r = .CMD ∨ (0x10 ≤ r.offset ∧ r.offset ≤ 0x44)) →
    s.regWrite r v = { s with status := { s.status with ovf := true } }) ∧
  (∀ (s : State) (v : Word), s.regWrite .CTRL v = { s with ctrl := ⟨v.getLsbD 0, v.getLsbD 1⟩ } ∧
    s.regWrite .TBL_IDX v = { s with tblIdx := v.setWidth 8 } ∧
    s.regWrite .STATUS v = { s with status := { s.status with
      done := s.status.done && !v.getLsbD 1, ovf := s.status.ovf && !v.getLsbD 2 } }) ∧
  (∀ (s : State) (r : Reg) (v : Word), r = .ID ∨ r = .CRC_RES ∨ r = .TBL_DATA → s.regWrite r v = s) ∧
  (∀ (s : State) (o : Nat) (v : Word), 0x54 ≤ o → s.regWriteAt o v = s)

/-- R178: a write to STATUS clears DONE where bit 1 is 1 and OVF where bit 2 is 1, and nothing else; read back, every other bit
of STATUS is as before. -/
def Obligations.StatusWriteClearsDoneAndOvf : Prop :=
  ∀ (s : State) (v : Word),
    let t := s.regWrite .STATUS v
    t = { s with status := t.status } ∧
    (∀ j, j < 32 → (t.regRead .STATUS).getLsbD j =
      ((s.regRead .STATUS).getLsbD j && !((j == 1 || j == 2) && v.getLsbD j)))

/-- R176, R177: with BUSY = 0 an operand register reads back what was written, and no other register changes; CTRL keeps bits 0
and 1; a write changes no byte of memory. -/
def Obligations.RegistersReadBack : Prop :=
  ∀ (s : State) (v : Word),
    (∀ r : Reg, s.status.busy = false → r.isOperand = true →
      (s.regWrite r v).regRead r = v ∧ (∀ q : Reg, q ≠ r → (s.regWrite r v).regRead q = s.regRead q) ∧
      s.SameMemory (s.regWrite r v)) ∧
    (s.regWrite .CTRL v).regRead .CTRL = v &&& 3#32 ∧
    (∀ q : Reg, q ≠ .CTRL → (s.regWrite .CTRL v).regRead q = s.regRead q) ∧
    s.regRead .CMD = 0 ∧ s.regRead .ID = 0x504E4743#32 ∧
    (∀ o, 0x54 ≤ o → s.regReadAt o = 0)

/-- R26, R176: STATUS reads as its fields at their places, with bit 7 and bits 31:12 zero. -/
def Obligations.StatusReadsAsItsFields : Prop :=
  ∀ s : State,
    let w := s.regRead .STATUS
    w.getLsbD 0 = s.status.busy ∧ w.getLsbD 1 = s.status.done ∧ w.getLsbD 2 = s.status.ovf ∧
    w.getLsbD 3 = s.status.tblRdy ∧ w.getLsbD 4 = s.status.stop ∧ w.getLsbD 5 = s.status.sigok ∧
    w.getLsbD 6 = s.status.crcerr ∧ w.getLsbD 7 = false ∧
    (w.extractLsb' 8 4).toNat = (match s.status.errcode with
      | .ok => 0 | .badcmd => 1 | .range => 2 | .capacity => 3 | .size => 4 | .overlap => 5 | .bus => 6) ∧
    w.extractLsb' 12 20 = 0#20

/-- R170, R179: an agent's read or write of the window is served exactly when it is a 32-bit access to an aligned offset inside
it; a read then changes nothing but what this agent has read and, where it reads STATUS with BUSY = 0 or DONE = 1, what this
agent has observed (log 26); any other access is refused by name.
Which name, where several reasons apply, is the model's choice (log 23), and so are agents as state (log 2). -/
def Obligations.OnlyAlignedWordAccessesAreServed : Prop :=
  ∀ (s : State) (k addr : Nat) (w : AccessWidth) (v : Word),
    let base := s.platform.regBase.toNat
    ((base ≤ addr ∧ addr < base + 0x100 ∧ w = .word ∧ (addr - base) % 4 = 0) →
      let u := if addr - base = 0x0C ∧ (s.status.busy = false ∨ s.status.done = true) then s.observe k else s
      s.portReadBy k addr w = .next (u.updAgent k (fun h => (h.gotReg (addr - base) (s.regReadAt (addr - base))).advance)) ∧
      s.portWriteBy k addr w v = .next ((s.regWriteAt (addr - base) v).updAgent k HostAgent.advance)) ∧
    ((addr < base ∨ base + 0x100 ≤ addr) →
      s.portReadBy k addr w = .refused .outsideWindow ∧ s.portWriteBy k addr w v = .refused .outsideWindow) ∧
    (base ≤ addr → addr < base + 0x100 → w ≠ .word →
      s.portReadBy k addr w = .refused .notWordAccess ∧ s.portWriteBy k addr w v = .refused .notWordAccess) ∧
    (base ≤ addr → addr < base + 0x100 → w = .word → (addr - base) % 4 ≠ 0 →
      s.portReadBy k addr w = .refused .misalignedAccess ∧ s.portWriteBy k addr w v = .refused .misalignedAccess)

/-- R93: a Host's `wr`, `rd` and `cmd` lines reach the register they name, wherever the platform puts the window. A read changes
this agent alone, and what it has observed where it reads STATUS with BUSY = 0 or DONE = 1 (log 26). -/
def Obligations.HostLinesReachTheirRegister : Prop :=
  ∀ (s : State) (k : Nat) (h : HostAgent) (ts : List Turn), s.turns = .agent k :: ts → s.agents[k]? = some h →
    let u : State := { s with turns := ts }
    (∀ r v, h.prog[h.pc]? = some (.wr r v) → step s = .next ((u.regWrite r v).updAgent k HostAgent.advance)) ∧
    (∀ i, h.prog[h.pc]? = some (.cmd i) → step s = .next ((u.regWrite .CMD (encode i)).updAgent k HostAgent.advance)) ∧
    (∀ r, h.prog[h.pc]? = some (.rd r) → ∃ t g,
      let v := if r = .STATUS ∧ (s.status.busy = false ∨ s.status.done = true) then u.observe k else u
      step s = .next t ∧ t = v.updAgent k (fun a => (a.gotReg r.offset (s.regRead r)).advance) ∧
      t.agents[k]? = some g ∧ g.rdata = s.regRead r ∧ g.pc = h.pc + 1)

/-- R204: of two CMD writes the first that finds BUSY = 0 is accepted and the next is dropped with OVF. -/
def Obligations.SecondCommandIsDropped : Prop :=
  ∀ (s : State) (v w : Word), s.status.busy = false →
    (s.regWrite .CMD v).regWrite .CMD w =
      { s.regWrite .CMD v with status := { s.status with busy := true, done := false, ovf := true } }

/-- R197: IRQ is CTRL.IRQ_EN AND STATUS.DONE, and changes in the same step as either: a completion raises it when enabled,
acceptance and an acknowledge lower it, a CTRL write enables or masks it. -/
def Obligations.IrqFollowsEnableAndDone : Prop :=
  (∀ s : State, s.irq = ((s.regRead .CTRL).getLsbD 0 && (s.regRead .STATUS).getLsbD 1)) ∧
  (∀ (i : Instr) (s t : State), exec i s = .next t → t.irq = s.ctrl.irqEn) ∧
  (∀ (s : State) (w : Word), s.status.busy = false → (s.regWrite .CMD w).irq = false) ∧
  (∀ s : State, (s.regWrite .STATUS 0x00000006#32).irq = false) ∧
  (∀ (s : State) (v : Word), (s.regWrite .CTRL v).irq = (v.getLsbD 0 && s.status.done))

/-! ## NOP and CRC -/

/-- R175: NOP completes with ERRCODE = 0 and DONE = 1 and changes no other register and no memory; written while BUSY = 1, it is
dropped like any CMD write. -/
def Obligations.NopChangesNothing : Prop :=
  (∀ s : State, ∃ t, exec .nop s = .next t ∧
    t.status = { s.status with busy := false, done := true, errcode := .ok } ∧
    t.regs = s.regs ∧ t.crcRes = s.crcRes ∧ s.Frame t ∧ s.SameMemory t) ∧
  (∀ s : State, s.status.busy = true → s.regWrite .CMD 0x00000000#32 = { s with status := { s.status with ovf := true } })

/-- The CRC command with the given INIT and FINAL (R82). -/
def crcInstr : Bool → Bool → Instr
  | false, false => .crc
  | true, false => .crcI
  | false, true => .crcF
  | true, true => .crcIF

/-- R106: CRC, CRC.I, CRC.F and CRC.IF over a range that is well formed and answers: CRC_ACC, CRC_RES when FINAL = 1, and the
frame. -/
def Obligations.CrcCommandResult : Prop :=
  ∀ (init final : Bool) (s : State), s.TableBuilt →
    let o := s.operands.regs
    o.crcAddr.toNat + o.crcLen.toNat ≤ 2 ^ 32 → s.Usable o.crcAddr.toNat o.crcLen.toNat →
    let acc := crcFold fullTable (if init then 0xFFFFFFFF#32 else o.crcAcc) (s.engineBytes o.crcAddr.toNat o.crcLen.toNat)
    ∃ t, exec (crcInstr init final) s = .next t ∧ t.regs = { s.regs with crcAcc := acc } ∧
      t.crcRes = (if final then ~~~acc else s.crcRes) ∧
      t.status = { s.status with busy := false, done := true, errcode := .ok } ∧ s.Frame t ∧ s.SameMemory t

/-- R106: RANGE when CRC_ADDR + CRC_LEN > 2^32, checked before any access; BUS when a byte of the input is outside `P_MEM`;
CRC_ACC and CRC_RES keep their old values. -/
def Obligations.CrcCommandErrors : Prop :=
  ∀ (init final : Bool) (s : State),
    let o := s.operands.regs
    (2 ^ 32 < o.crcAddr.toNat + o.crcLen.toNat →
      ∃ t, exec (crcInstr init final) s = .next t ∧ t.status.errcode = .range ∧ t.regs = s.regs ∧ t.crcRes = s.crcRes ∧
        s.SameMemory t) ∧
    (o.crcAddr.toNat + o.crcLen.toNat ≤ 2 ^ 32 → s.platform.anyDevice o.crcAddr.toNat o.crcLen.toNat = false →
      (∃ j, j < o.crcLen.toNat ∧ s.platform.answers (o.crcAddr.toNat + j) = false) →
      ∃ t, exec (crcInstr init final) s = .next t ∧ t.status.errcode = .bus ∧ t.regs = s.regs ∧ t.crcRes = s.crcRes ∧
        s.SameMemory t)

/-- The source's vectors (S1) and the table entries of 95_test_vectors.md section 2.1. -/
def Obligations.CrcKnownVectors : Prop :=
  crc32 fullTable [] = 0x00000000#32 ∧
  crc32 fullTable [0x31, 0x32, 0x33, 0x34, 0x35, 0x36, 0x37, 0x38, 0x39] = 0xCBF43926#32 ∧
  crc32 fullTable [0x49, 0x45, 0x4E, 0x44] = 0xAE426082#32 ∧
  tableEntry 0x01 = 0x77073096#32 ∧ tableEntry 0x80 = 0xEDB88320#32 ∧ tableEntry 0xAA = 0x36034AF6#32 ∧
  tableEntry 0xFF = 0x2D02EF8D#32

/-- R104: the fold over no byte, and over a concatenation. -/
def Obligations.CrcFoldOfConcatenation : Prop :=
  ∀ (t : List Word) (acc : Word) (xs ys : List Byte),
    crcFold t acc [] = acc ∧ crcFold t acc (xs ++ ys) = crcFold t (crcFold t acc xs) ys

/-- The table-driven engine computes the CRC of R100: for every accumulator and every byte sequence, the fold over TABLE is the
reflected shift register with the polynomial 0xEDB88320, one bit at a time. -/
def Obligations.TableDrivenCrcIsBitSerial : Prop :=
  ∀ (acc : Word) (bs : List Byte), crcFold fullTable acc bs = bitSerialFold acc bs

/-- R107: a CRC over ranges taken one after the other with crc.i, crc and crc.f is the CRC of their bytes concatenated. The spec
marks R107 as its own derivation. -/
def Obligations.ChainedCrcEqualsWhole : Prop :=
  ∀ (s : State) (p : Word × Word) (ps : List (Word × Word)), s.Idle → s.Quiet → ps ≠ [] →
    (∀ q ∈ p :: ps, q.1.toNat + q.2.toNat ≤ 2 ^ 32 ∧ s.Usable q.1.toNat q.2.toNat) →
    ∃ t, crcParts p ps s = some t ∧ t.crcRes = crc32 fullTable (bytesOf s.mem (p :: ps)) ∧ s.SameMemory t ∧
      t.regs.chCrc = s.regs.chCrc

/-! ## SIGCHK and PARSE -/

/-- R122: SIGCHK on a well-formed range whose first 8 bytes, if it has them, answer: SIGOK is 1 exactly when SRC_LEN ≥ 8 and all 8
bytes equal SIG; ERRCODE = 0 either way; a range of fewer than 8 bytes needs no memory at all. -/
def Obligations.SigchkComparesTheSignature : Prop :=
  ∀ s : State,
    let o := s.operands.regs
    o.srcBase.toNat + o.srcLen.toNat ≤ 2 ^ 32 → (8 ≤ o.srcLen.toNat → s.Usable o.srcBase.toNat 8) →
    ∃ t, exec .sigchk s = .next t ∧
      (t.status.sigok = true ↔ 8 ≤ o.srcLen.toNat ∧
        ∀ k, k < 8 → s.engineByte (o.srcBase.toNat + k) =
          byteAt [0x89, 0x50, 0x4E, 0x47, 0x0D, 0x0A, 0x1A, 0x0A] k) ∧
      t.status = { s.status with busy := false, done := true, errcode := .ok, sigok := t.status.sigok } ∧
      t.regs = s.regs ∧ t.crcRes = s.crcRes ∧ s.Frame t ∧ s.SameMemory t

/-- R122: SIGCHK's errors, RANGE and BUS, with SIGOK = 0. -/
def Obligations.SigchkErrors : Prop :=
  ∀ s : State,
    let o := s.operands.regs
    (2 ^ 32 < o.srcBase.toNat + o.srcLen.toNat →
      ∃ t, exec .sigchk s = .next t ∧ t.status.errcode = .range ∧ t.status.sigok = false ∧ t.regs = s.regs) ∧
    (o.srcBase.toNat + o.srcLen.toNat ≤ 2 ^ 32 → 8 ≤ o.srcLen.toNat →
      s.platform.anyDevice o.srcBase.toNat 8 = false →
      (∃ j, j < 8 ∧ s.platform.answers (o.srcBase.toNat + j) = false) →
      ∃ t, exec .sigchk s = .next t ∧ t.status.errcode = .bus ∧ t.status.sigok = false ∧ t.regs = s.regs)

/-- R128, R130: PARSE stops, without an error, when fewer than 8 bytes remain or the bytes after the header are fewer than
size + 4 (integers): STOP = 1, CRCERR = 0, ERRCODE = 0, and no other register or byte changes. -/
def Obligations.ParseStopsOnTruncation : Prop :=
  ∀ s : State,
    let o := s.operands.regs
    let at0 := o.srcBase.toNat + o.srcCur.toNat
    let rem := if o.srcCur.toNat ≤ o.srcLen.toNat then o.srcLen.toNat - o.srcCur.toNat else 0
    let size := (be32 (s.engineByte at0) (s.engineByte (at0 + 1)) (s.engineByte (at0 + 2)) (s.engineByte (at0 + 3))).toNat
    o.srcBase.toNat + o.srcLen.toNat ≤ 2 ^ 32 →
    (rem < 8 ∨ (8 ≤ rem ∧ s.Usable at0 8 ∧ rem < 8 + (size + 4))) →
    ∃ t, exec .parse s = .next t ∧
      t.status = { s.status with busy := false, done := true, errcode := .ok, stop := true, crcerr := false } ∧
      t.regs = s.regs ∧ t.crcRes = s.crcRes ∧ s.Frame t ∧ s.SameMemory t

/-- R127, R129, R131 to R133, R136: when the chunk fits and its bytes answer, PARSE writes the chunk registers and advances
SRC_CUR by 12 + size, past no end and without wrapping; CRCERR tells a mismatch only when VERIFY_EN was latched as 1; no
byte of memory changes. -/
def Obligations.ParseProducesTheChunk : Prop :=
  ∀ s : State, s.TableBuilt →
    let o := s.operands.regs
    let at0 := o.srcBase.toNat + o.srcCur.toNat
    let size := be32 (s.engineByte at0) (s.engineByte (at0 + 1)) (s.engineByte (at0 + 2)) (s.engineByte (at0 + 3))
    let tag := [s.engineByte (at0 + 4), s.engineByte (at0 + 5), s.engineByte (at0 + 6), s.engineByte (at0 + 7)]
    let c := at0 + 8 + size.toNat
    let crc := be32 (s.engineByte c) (s.engineByte (c + 1)) (s.engineByte (c + 2)) (s.engineByte (c + 3))
    o.srcBase.toNat + o.srcLen.toNat ≤ 2 ^ 32 → o.srcCur.toNat + 12 + size.toNat ≤ o.srcLen.toNat →
    s.Usable at0 8 → s.Usable c 4 → (s.operands.verifyEn = true → s.Usable (at0 + 8) size.toNat) →
    ∃ t, exec .parse s = .next t ∧
      t.regs = { s.regs with
        chSize := size
        chType := be32 (s.engineByte (at0 + 4)) (s.engineByte (at0 + 5)) (s.engineByte (at0 + 6)) (s.engineByte (at0 + 7))
        chDaddr := t.regs.chDaddr
        chDlen := size
        chCrc := crc
        srcCur := t.regs.srcCur } ∧
      t.regs.chDaddr.toNat = o.srcBase.toNat + o.srcCur.toNat + 8 ∧
      t.regs.srcCur.toNat = o.srcCur.toNat + 12 + size.toNat ∧ t.regs.srcCur.toNat ≤ o.srcLen.toNat ∧
      t.status = { s.status with
        busy := false, done := true, errcode := .ok, stop := false
        crcerr := s.operands.verifyEn && crc32 fullTable (tag ++ s.engineBytes (at0 + 8) size.toNat) != crc } ∧
      t.crcRes = s.crcRes ∧ s.Frame t ∧ s.SameMemory t

/-- R134: PARSE's errors: RANGE first; BUS on the header, on the crc field, and with VERIFY_EN = 1 on the payload; STOP = 1,
CRCERR = 0, and the chunk registers and SRC_CUR unchanged. -/
def Obligations.ParseErrors : Prop :=
  ∀ s : State,
    let o := s.operands.regs
    let at0 := o.srcBase.toNat + o.srcCur.toNat
    let size := (be32 (s.engineByte at0) (s.engineByte (at0 + 1)) (s.engineByte (at0 + 2)) (s.engineByte (at0 + 3))).toNat
    let failed := fun (c : ErrCode) => ∃ t, exec .parse s = .next t ∧ t.status.errcode = c ∧ t.status.stop = true ∧
      t.status.crcerr = false ∧ t.regs = s.regs ∧ s.SameMemory t
    let noAnswer := fun (a n : Nat) => s.platform.anyDevice a n = false ∧ s.platform.allAnswer a n = false
    (2 ^ 32 < o.srcBase.toNat + o.srcLen.toNat → failed .range) ∧
    (o.srcBase.toNat + o.srcLen.toNat ≤ 2 ^ 32 → o.srcCur.toNat + 8 ≤ o.srcLen.toNat →
      (noAnswer at0 8 → failed .bus) ∧
      (s.Usable at0 8 → o.srcCur.toNat + 12 + size ≤ o.srcLen.toNat →
        (noAnswer (at0 + 8 + size) 4 → failed .bus) ∧
        (s.Usable (at0 + 8 + size) 4 → s.operands.verifyEn = true → noAnswer (at0 + 8) size → failed .bus)))

/-- R136: verification changes no result but CRCERR: with the same operands, VERIFY_EN = 0 and VERIFY_EN = 1 give the same code
where the source buffer answers (else the payload, which only the latter reads, may give BUS), and with the same code the same
registers and STATUS but for CRCERR, which is 0 with VERIFY_EN = 0. -/
def Obligations.VerifyChangesOnlyCrcerr : Prop :=
  ∀ (s t u : State) (r : CmdRecord),
    exec .parse { s with inflight := some { r with verifyEn := false } } = .next t →
    exec .parse { s with inflight := some { r with verifyEn := true } } = .next u →
    t.status.crcerr = false ∧
    (s.platform.allAnswer r.regs.srcBase.toNat r.regs.srcLen.toNat = true → u.status.errcode = t.status.errcode) ∧
    (u.status.errcode = t.status.errcode →
      u.regs = t.regs ∧ u.crcRes = t.crcRes ∧ u.mem = t.mem ∧ u.status = { t.status with crcerr := u.status.crcerr })

/-! ## EMITSIG, EMIT and MKCHUNK -/

/-- R140: with room for 8 bytes that answer, EMITSIG writes SIG at DST_BASE + DST_CUR and adds 8 to DST_CUR; every other byte and
register is unchanged. -/
def Obligations.EmitsigWritesTheSignature : Prop :=
  ∀ s : State, s.mem.wf →
    let o := s.operands.regs
    o.dstBase.toNat + o.dstLen.toNat ≤ 2 ^ 32 → o.dstCur.toNat + 8 ≤ o.dstLen.toNat → s.Usable o.dstAddr 8 →
    ∃ t, exec .emitsig s = .next t ∧
      s.Stored t o.dstAddr [0x89, 0x50, 0x4E, 0x47, 0x0D, 0x0A, 0x1A, 0x0A] ∧ s.SameMemoryOutside t o.dstAddr 8 ∧
      t.regs = { s.regs with dstCur := t.regs.dstCur } ∧ t.regs.dstCur.toNat = o.dstCur.toNat + 8 ∧
      t.status = { s.status with busy := false, done := true, errcode := .ok } ∧ t.crcRes = s.crcRes ∧ s.Frame t

/-- R140, R141: EMITSIG's errors in the order of R194: RANGE, CAPACITY, BUS; nothing is written before BUS, and DST_CUR keeps its
value. -/
def Obligations.EmitsigErrors : Prop :=
  ∀ s : State,
    let o := s.operands.regs
    let failed := fun (c : ErrCode) => ∃ t, exec .emitsig s = .next t ∧ t.status.errcode = c ∧ t.regs = s.regs ∧
      (c ≠ .bus → s.SameMemory t) ∧ s.SameMemoryOutside t o.dstAddr 8
    (2 ^ 32 < o.dstBase.toNat + o.dstLen.toNat → failed .range) ∧
    (o.dstBase.toNat + o.dstLen.toNat ≤ 2 ^ 32 →
      ((o.dstLen.toNat < o.dstCur.toNat ∨ o.dstLen.toNat - o.dstCur.toNat < 8) → failed .capacity) ∧
      (o.dstCur.toNat + 8 ≤ o.dstLen.toNat → s.platform.anyDevice o.dstAddr 8 = false →
        s.platform.allAnswer o.dstAddr 8 = false → failed .bus))

/-- R143: when its checks pass and its ranges answer, EMIT writes length, tag, payload and crc at DST_BASE + DST_CUR, big-endian
and in that order, and adds 12 + CH_SIZE to DST_CUR without wrapping; the chunk registers and every other byte are
unchanged. -/
def Obligations.EmitWritesTheChunk : Prop :=
  ∀ s : State, s.mem.wf →
    let o := s.operands.regs
    let n := 12 + o.chSize.toNat
    o.dstBase.toNat + o.dstLen.toNat ≤ 2 ^ 32 → o.chDaddr.toNat + o.chSize.toNat ≤ 2 ^ 32 → o.chSize = o.chDlen →
    o.dstCur.toNat + n ≤ o.dstLen.toNat →
    (o.chSize = 0 ∨ o.dstAddr + n ≤ o.chDaddr.toNat ∨ o.chDaddr.toNat + o.chSize.toNat ≤ o.dstAddr) →
    s.Usable o.chDaddr.toNat o.chSize.toNat → s.Usable o.dstAddr n →
    ∃ t, exec .emit s = .next t ∧
      s.Stored t o.dstAddr
        (be32enc o.chSize ++ tagBytes o.chType ++ s.engineBytes o.chDaddr.toNat o.chSize.toNat ++ be32enc o.chCrc) ∧
      s.SameMemoryOutside t o.dstAddr n ∧
      t.regs = { s.regs with dstCur := t.regs.dstCur } ∧ t.regs.dstCur.toNat = o.dstCur.toNat + n ∧
      t.status = { s.status with busy := false, done := true, errcode := .ok } ∧ t.crcRes = s.crcRes ∧ s.Frame t

/-- R143 to R147: EMIT's errors in their check order: RANGE of the destination, RANGE of the payload, SIZE, CAPACITY, OVERLAP, BUS.
Before BUS nothing is written; DST_CUR and the chunk registers keep their values. -/
def Obligations.EmitErrorsInOrder : Prop :=
  ∀ s : State,
    let o := s.operands.regs
    let n := 12 + o.chSize.toNat
    let failed := fun (c : ErrCode) => ∃ t, exec .emit s = .next t ∧ t.status.errcode = c ∧ t.regs = s.regs ∧
      (c ≠ .bus → s.SameMemory t) ∧ s.SameMemoryOutside t o.dstAddr n
    (2 ^ 32 < o.dstBase.toNat + o.dstLen.toNat → failed .range) ∧
    (o.dstBase.toNat + o.dstLen.toNat ≤ 2 ^ 32 →
      (2 ^ 32 < o.chDaddr.toNat + o.chSize.toNat → failed .range) ∧
      (o.chDaddr.toNat + o.chSize.toNat ≤ 2 ^ 32 →
        (o.chSize ≠ o.chDlen → failed .size) ∧
        (o.chSize = o.chDlen →
          ((o.dstLen.toNat < o.dstCur.toNat ∨ o.dstLen.toNat - o.dstCur.toNat < n) → failed .capacity) ∧
          (o.dstCur.toNat + n ≤ o.dstLen.toNat →
            ((0 < o.chSize.toNat ∧ o.chDaddr.toNat < o.dstAddr + n ∧ o.dstAddr < o.chDaddr.toNat + o.chSize.toNat) →
              failed .overlap) ∧
            ((o.chSize = 0 ∨ o.dstAddr + n ≤ o.chDaddr.toNat ∨ o.chDaddr.toNat + o.chSize.toNat ≤ o.dstAddr) →
              s.platform.anyDevice o.dstAddr n = false →
              s.platform.anyDevice o.chDaddr.toNat o.chSize.toNat = false →
              (s.platform.allAnswer o.dstAddr n = false ∨
                s.platform.allAnswer o.chDaddr.toNat o.chSize.toNat = false) → failed .bus)))))

/-- R152, R153: MKCHUNK over a well-formed range that answers: CH_SIZE becomes CH_DLEN, whatever it was, and CH_CRC the CRC32 of the
4 tag bytes in stream order followed by the data; CRC_ACC and CRC_RES, every other register and all memory are unchanged. -/
def Obligations.MkchunkMakesTheChunk : Prop :=
  ∀ s : State, s.TableBuilt →
    let o := s.operands.regs
    o.chDaddr.toNat + o.chDlen.toNat ≤ 2 ^ 32 → s.Usable o.chDaddr.toNat o.chDlen.toNat →
    ∃ t, exec .mkchunk s = .next t ∧
      t.regs = { s.regs with
        chSize := o.chDlen
        chCrc := crc32 fullTable
          ([o.chType.extractLsb' 24 8, o.chType.extractLsb' 16 8, o.chType.extractLsb' 8 8, o.chType.extractLsb' 0 8] ++
            s.engineBytes o.chDaddr.toNat o.chDlen.toNat) } ∧
      t.status = { s.status with busy := false, done := true, errcode := .ok } ∧ t.crcRes = s.crcRes ∧ s.Frame t ∧
      s.SameMemory t

/-- R152: MKCHUNK's errors, RANGE and BUS; CH_SIZE and CH_CRC are unchanged. -/
def Obligations.MkchunkErrors : Prop :=
  ∀ s : State,
    let o := s.operands.regs
    (2 ^ 32 < o.chDaddr.toNat + o.chDlen.toNat →
      ∃ t, exec .mkchunk s = .next t ∧ t.status.errcode = .range ∧ t.regs = s.regs ∧ s.SameMemory t) ∧
    (o.chDaddr.toNat + o.chDlen.toNat ≤ 2 ^ 32 → s.platform.anyDevice o.chDaddr.toNat o.chDlen.toNat = false →
      s.platform.allAnswer o.chDaddr.toNat o.chDlen.toNat = false →
      ∃ t, exec .mkchunk s = .next t ∧ t.status.errcode = .bus ∧ t.regs = s.regs ∧ s.SameMemory t)

/-! ## Memory between the agents -/

/-- R64, R73, R75: what an Engine read returns: M[a] when nothing interferes; the old byte or one of those stored where Host
stores are not visible yet, of two stores either; and after another agent's store while a command is in flight, the free byte
of the draw, of which nothing is known (log 10, log 11). -/
def Obligations.EngineReadsMemoryUnlessRaced : Prop :=
  ∀ (s : State) (a : Nat),
    (s.Quiet → s.engineByte a = s.mem.read a) ∧
    (s.raced = [] → a ∉ s.contested → s.engineByte a = s.mem.read a ∨ s.engineByte a ∈ cellsAt s.dirty a) ∧
    (∀ v w, s.raced = [] → s.inflight = none → s.platform.coherent = false →
      let t := (s.hostStore a v).hostStore a w
      v ∈ cellsAt t.dirty a ∧ w ∈ cellsAt t.dirty a ∧
      t.engineByte a = pickByte (Config.freeChoice s.draws a) (s.mem.read a) (cellsAt t.dirty a)) ∧
    (∀ v, s.inflight.isSome = true → (s.hostStore a v).engineByte a = Config.freeByte s.draws a)

/-- R75: an agent's load of a byte of the write set of the command in flight returns a free byte, and after the completion of that
command, whatever its code, the byte it raced on holds a free value; and so does a byte of the write set that an agent has
stored to during the command, whatever the store and on every platform (log 10). -/
def Obligations.RacedWriteSetByteIsFree : Prop :=
  ∀ (s t : State) (r : CmdRecord) (x : Nat), s.mem.wf → s.inflight = some r → s.inWriteSet x = true →
    (∀ k, s.hostByte k x = Config.freeByte s.draws x) ∧
    (exec (decode r.word) (s.afterLoad x) = .next t → t.mem.read x = Config.freeByte (s.draws + 1) x) ∧
    (∀ v, exec (decode r.word) (s.hostStore x v) = .next t → t.mem.read x = Config.freeByte s.draws x)

/-- R7, R63: an agent's load and store lines act on ordinary memory that answers; the load gives the byte and changes no
register and no memory, the store on a coherent platform changes that one byte and no register. Outside `P_MEM` they fault, and
in a device region they are refused (log 13). -/
def Obligations.AgentsAccessMemoryDirectly : Prop :=
  ∀ (s : State) (k : Nat) (h : HostAgent) (a : Word) (v : Byte), s.agents[k]? = some h → s.mem.wf →
    (s.platform.isDevice a.toNat = false → s.platform.answers a.toNat = true →
      (∃ t g, s.runLine k h (.load a) = .next t ∧ t.agents[k]? = some g ∧ g.mdata = s.hostByte k a.toNat ∧ g.pc = h.pc + 1 ∧
        t.mem = s.mem ∧ (∀ r, t.regRead r = s.regRead r)) ∧
      (s.platform.coherent = true → ∃ t, s.runLine k h (.store a v) = .next t ∧ t.mem.read a.toNat = v ∧
        (∀ x, x ≠ a.toNat → t.mem.read x = s.mem.read x) ∧ (∀ r, t.regRead r = s.regRead r))) ∧
    (s.platform.isDevice a.toNat = false → s.platform.answers a.toNat = false →
      s.runLine k h (.load a) = .fault .hostBusError ∧ s.runLine k h (.store a v) = .fault .hostBusError) ∧
    (s.platform.isDevice a.toNat = true →
      s.runLine k h (.load a) = .refused .hostDeviceAccess ∧ s.runLine k h (.store a v) = .refused .hostDeviceAccess)

/-- R73, R79: with no command in flight, a Host's store on a coherent platform is what the Engine then reads; on one that is not, it
is so once the Host has cleaned the range. -/
def Obligations.CleanedStoresAreVisible : Prop :=
  ∀ (s : State) (a : Nat) (v : Byte), s.Inv → s.inflight = none →
    (s.platform.coherent = true → (s.hostStore a v).engineByte a = v) ∧
    (s.platform.coherent = false → ∀ b n, b ≤ a → a < b + n → ((s.hostStore a v).hostClean b n).engineByte a = v)

/-- R74, R79: with no command in flight and every completion observed, an agent's load returns M[a] on a coherent platform at
once, and on any platform once the agent has invalidated its copies of the range; invalidating changes M[a] only where the
Hosts have stored and not cleaned, to one of those bytes unless an Engine write has met them (log 11, log 22). -/
def Obligations.InvalidatedLoadsAreFresh : Prop :=
  ∀ (s : State) (k a : Nat), s.Inv → s.inflight = none →
    (s.platform.coherent = true → (s.observe k).hostByte k a = s.mem.read a) ∧
    (∀ b n, b ≤ a → a < b + n →
      let t := (s.observe k).hostInvalidate k b n
      t.hostByte k a = t.mem.read a ∧
      (cellsAt s.dirty a = [] → t.mem.read a = s.mem.read a) ∧
      (a ∉ s.contested → t.mem.read a = s.mem.read a ∨ t.mem.read a ∈ cellsAt s.dirty a))

/-- R74, R230: an Engine write becomes visible to an agent when it observes the completion. Of every byte that a command
changes, each agent may still see the old one; on a coherent platform its loads give M[a] or such an old byte, and M[a] once it
has read STATUS with BUSY = 0, by `rd` or `wait`, or taken the interrupt; reading STATUS with BUSY = 1 and DONE = 0 observes
nothing (log 26). -/
def Obligations.CompletionMustBeObserved : Prop :=
  (∀ (i : Instr) (s t : State) (k x : Nat), exec i s = .next t → k < s.agents.length →
    t.mem.read x ≠ s.mem.read x → s.mem.read x ∈ t.unseenBy k x) ∧
  (∀ (s : State) (k : Nat) (h : HostAgent), s.Inv → s.inflight = none → s.platform.coherent = true →
    (∀ a, s.hostByte k a = s.mem.read a ∨ s.hostByte k a ∈ s.unseenBy k a) ∧
    (s.status.busy = false → ∀ l, l = .rd .STATUS ∨ l = .wait → ∃ t, s.runLine k h l = .next t ∧
      ∀ a, t.hostByte k a = s.mem.read a) ∧
    (∀ line, s.lineHigh line = true → ∃ t, s.runLine k h (.waitIrq line) = .next t ∧
      ∀ a, t.hostByte k a = s.mem.read a)) ∧
  (∀ (s : State) (k : Nat) (h : HostAgent), s.status.busy = true → s.status.done = false →
    ∀ l, l = .rd .STATUS ∨ l = .wait → ∃ t, s.runLine k h l = .next t ∧ t.unseen = s.unseen)

/-- Where an Engine write meets a Host store that is not visible yet, which of the two lasts is open: the byte is free for the
Engine and for every agent, and stays so in M after a clean and after an invalidate (log 11). -/
def Obligations.EngineWriteOverUncleanedStoreIsFree : Prop :=
  ∀ (s : State) (a b : Nat) (bs : List Byte), s.mem.wf → s.raced = [] → cellsAt s.dirty a ≠ [] → b ≤ a → a < b + bs.length →
    let t := s.engineStore b bs
    t.mem.read a = Config.freeByte s.draws a ∧ t.engineByte a = Config.freeByte s.draws a ∧
    (∀ k, t.hostByte k a = Config.freeByte s.draws a) ∧
    (∀ c n, c ≤ a → a < c + n → (t.hostClean c n).mem.read a = Config.freeByte s.draws a ∧
      ∀ k, (t.hostInvalidate k c n).mem.read a = Config.freeByte s.draws a)

/-! ## split and join -/

/-- R137, R138 (which the spec marks as its own derivations): on a buffer of N bytes that are ordinary memory, with VERIFY_EN
either way, PARSE repeated from SRC_CUR = 8 until STOP = 1 records exactly the chunks of the source's split, within
floor((N - 8) / 12) + 1 commands, with ERRCODE = 0, and SRC_CUR ends at 8 + Σ (12 + size); memory is unchanged. -/
def Obligations.ParseLoopIsSplit : Prop :=
  ∀ s : State, s.Idle → s.Quiet → s.regs.srcCur = 8 →
    let base := s.regs.srcBase.toNat
    let n := s.regs.srcLen.toNat
    base + n ≤ 2 ^ 32 → s.Usable base n →
    let cs := splitBytes (s.mem.readBytes base n)
    ∃ t, parseLoop ((n - 8) / 12 + 1) s = ((parseLoop ((n - 8) / 12 + 1) s).1, some t) ∧
      (parseLoop ((n - 8) / 12 + 1) s).1.map (ChunkRegs.chunk s.mem) = cs ∧
      t.status.stop = true ∧ t.status.errcode = .ok ∧ t.regs.srcCur.toNat = 8 + chunksLength cs ∧ s.SameMemory t

/-- R149, R150 (which the spec marks as its own derivations): with room for 8 + Σ (12 + size) bytes of ordinary memory that no
payload overlaps (an empty payload overlaps nothing, wherever it is addressed), the join loop completes every command with
ERRCODE = 0, the destination holds join of the chunks, DST_CUR is its length, and no other byte changes. -/
def Obligations.EmitLoopIsJoin : Prop :=
  ∀ (s : State) (cs : List ChunkRegs), s.Idle → s.Quiet → s.mem.wf →
    let base := s.regs.dstBase.toNat
    let total := 8 + chunksLength (cs.map (ChunkRegs.chunk s.mem))
    base + s.regs.dstLen.toNat ≤ 2 ^ 32 → total ≤ s.regs.dstLen.toNat → s.Usable base total →
    (∀ c ∈ cs, c.daddr.toNat + c.size.toNat ≤ 2 ^ 32 ∧ s.Usable c.daddr.toNat c.size.toNat ∧
      (c.size = 0 ∨ c.daddr.toNat + c.size.toNat ≤ base ∨ base + total ≤ c.daddr.toNat)) →
    ∃ t, joinLoop cs s = some t ∧ t.regs.dstCur.toNat = total ∧
      t.mem.readBytes base total = joinBytes (cs.map (ChunkRegs.chunk s.mem)) ∧ s.SameMemoryOutside t base total

/-- R151 (which the spec marks as its own derivation): a buffer that starts with SIG and consists of complete chunks from offset 8
with no trailing bytes, split by the PARSE loop and rejoined into a separate destination with room for it, is reproduced byte
for byte, and DST_CUR is its length. -/
def Obligations.SplitThenJoinIsIdentity : Prop :=
  ∀ s : State, s.Idle → s.Quiet → s.mem.wf → s.regs.srcCur = 8 →
    let src := s.regs.srcBase.toNat
    let n := s.regs.srcLen.toNat
    let dst := s.regs.dstBase.toNat
    let buf := s.mem.readBytes src n
    src + n ≤ 2 ^ 32 → s.Usable src n → dst + s.regs.dstLen.toNat ≤ 2 ^ 32 → n ≤ s.regs.dstLen.toNat → s.Usable dst n →
    (src + n ≤ dst ∨ dst + n ≤ src) → buf.take 8 = signature → 8 + chunksLength (splitBytes buf) = n →
    ∃ t u, (parseLoop ((n - 8) / 12 + 1) s).2 = some t ∧ joinLoop (parseLoop ((n - 8) / 12 + 1) s).1 t = some u ∧
      u.regs.dstCur.toNat = n ∧ u.mem.readBytes dst n = buf

/-! ## The Host's branches -/

/-- R93: `bif` to a label of the program jumps there when the field of the last STATUS value this agent read is 1, and goes to the
next line otherwise; before it has read STATUS it does one or the other, since the value tested is free (log 21). Nothing else
changes but the draw counter (log 8). -/
def Obligations.BranchTestsTheLastStatusRead : Prop :=
  ∀ (s : State) (k : Nat) (h : HostAgent) (f : StatusField) (l p : Nat) (ts : List Turn), s.turns = .agent k :: ts →
    s.agents[k]? = some h → h.prog[h.pc]? = some (.branchIf f l) → findLabel h.prog l = some p →
    ∃ t q, step s = .next t ∧ t = { s with turns := ts, agents := t.agents, draws := t.draws } ∧
      t.agents[k]? = some { h with pc := q } ∧ (∀ j, j ≠ k → t.agents[j]? = s.agents[j]?) ∧
      (∀ w, h.lastStatus = some w → q = (if f.value w = 1 then p else h.pc + 1) ∧ t.draws = s.draws) ∧
      (h.lastStatus = none → q = p ∨ q = h.pc + 1)
end

