-- ==== Sys2Proof/Laws/State.lean ====
section
/-! SUPPORT. One lemma per field and update of State: what each shared operation leaves and what it writes. -/

namespace Sys2Proof.Machine

/-! ### Lengths -/

@[simp] theorem freeBytes_length (d a n : Nat) : (freeBytes d a n).length = n := by
  induction n generalizing a with
  | zero => rfl
  | succ n ih => simp [freeBytes, ih]

@[simp] theorem State.landed_length (s : State) (a : Nat) (bs : List Byte) : (s.landed a bs).length = bs.length := by
  induction bs generalizing a with
  | nil => rfl
  | cons b bs ih => simp [State.landed, ih]

/-! ### State.complete -/

@[simp] theorem State.complete_ctrl (s : State) (c : ErrCode) : (s.complete c).ctrl = s.ctrl := rfl
@[simp] theorem State.complete_status (s : State) (c : ErrCode) : (s.complete c).status = s.status.completed c := rfl
@[simp] theorem State.complete_regs (s : State) (c : ErrCode) : (s.complete c).regs = s.regs := rfl
@[simp] theorem State.complete_crcRes (s : State) (c : ErrCode) : (s.complete c).crcRes = s.crcRes := rfl
@[simp] theorem State.complete_tblIdx (s : State) (c : ErrCode) : (s.complete c).tblIdx = s.tblIdx := rfl
@[simp] theorem State.complete_table (s : State) (c : ErrCode) : (s.complete c).table = s.table := rfl
@[simp] theorem State.complete_inflight (s : State) (c : ErrCode) : (s.complete c).inflight = none := rfl
@[simp] theorem State.complete_mem (s : State) (c : ErrCode) : (s.complete c).mem = s.mem := rfl
@[simp] theorem State.complete_platform (s : State) (c : ErrCode) : (s.complete c).platform = s.platform := rfl
@[simp] theorem State.complete_agents (s : State) (c : ErrCode) : (s.complete c).agents = s.agents := rfl
@[simp] theorem State.complete_turns (s : State) (c : ErrCode) : (s.complete c).turns = s.turns := rfl
@[simp] theorem State.complete_dirty (s : State) (c : ErrCode) : (s.complete c).dirty = s.dirty := rfl
@[simp] theorem State.complete_contested (s : State) (c : ErrCode) : (s.complete c).contested = s.contested := rfl
@[simp] theorem State.complete_stale (s : State) (c : ErrCode) : (s.complete c).stale = s.stale := rfl
@[simp] theorem State.complete_unseen (s : State) (c : ErrCode) : (s.complete c).unseen = s.unseen := rfl
@[simp] theorem State.complete_raced (s : State) (c : ErrCode) : (s.complete c).raced = [] := rfl
@[simp] theorem State.complete_draws (s : State) (c : ErrCode) : (s.complete c).draws = s.draws + 1 := rfl

/-! ### State.finish -/

@[simp] theorem State.finish_ctrl (s : State) : (s.finish).ctrl = s.ctrl := rfl
@[simp] theorem State.finish_status (s : State) : (s.finish).status = s.status.completed .ok := rfl
@[simp] theorem State.finish_regs (s : State) : (s.finish).regs = s.regs := rfl
@[simp] theorem State.finish_crcRes (s : State) : (s.finish).crcRes = s.crcRes := rfl
@[simp] theorem State.finish_tblIdx (s : State) : (s.finish).tblIdx = s.tblIdx := rfl
@[simp] theorem State.finish_table (s : State) : (s.finish).table = s.table := rfl
@[simp] theorem State.finish_inflight (s : State) : (s.finish).inflight = none := rfl
@[simp] theorem State.finish_mem (s : State) : (s.finish).mem = s.mem := rfl
@[simp] theorem State.finish_platform (s : State) : (s.finish).platform = s.platform := rfl
@[simp] theorem State.finish_agents (s : State) : (s.finish).agents = s.agents := rfl
@[simp] theorem State.finish_turns (s : State) : (s.finish).turns = s.turns := rfl
@[simp] theorem State.finish_dirty (s : State) : (s.finish).dirty = s.dirty := rfl
@[simp] theorem State.finish_contested (s : State) : (s.finish).contested = s.contested := rfl
@[simp] theorem State.finish_stale (s : State) : (s.finish).stale = s.stale := rfl
@[simp] theorem State.finish_unseen (s : State) : (s.finish).unseen = s.unseen := rfl
@[simp] theorem State.finish_raced (s : State) : (s.finish).raced = [] := rfl
@[simp] theorem State.finish_draws (s : State) : (s.finish).draws = s.draws + 1 := rfl

/-! ### State.raise -/

@[simp] theorem State.raise_ctrl (s : State) (i : Instr) (c : ErrCode) : (s.raise i c).ctrl = s.ctrl := rfl
@[simp] theorem State.raise_status (s : State) (i : Instr) (c : ErrCode) : (s.raise i c).status = (s.status.failClosed i).completed c := rfl
@[simp] theorem State.raise_regs (s : State) (i : Instr) (c : ErrCode) : (s.raise i c).regs = s.regs := rfl
@[simp] theorem State.raise_crcRes (s : State) (i : Instr) (c : ErrCode) : (s.raise i c).crcRes = s.crcRes := rfl
@[simp] theorem State.raise_tblIdx (s : State) (i : Instr) (c : ErrCode) : (s.raise i c).tblIdx = s.tblIdx := rfl
@[simp] theorem State.raise_table (s : State) (i : Instr) (c : ErrCode) : (s.raise i c).table = s.table := rfl
@[simp] theorem State.raise_inflight (s : State) (i : Instr) (c : ErrCode) : (s.raise i c).inflight = none := rfl
@[simp] theorem State.raise_mem (s : State) (i : Instr) (c : ErrCode) : (s.raise i c).mem = s.mem := rfl
@[simp] theorem State.raise_platform (s : State) (i : Instr) (c : ErrCode) : (s.raise i c).platform = s.platform := rfl
@[simp] theorem State.raise_agents (s : State) (i : Instr) (c : ErrCode) : (s.raise i c).agents = s.agents := rfl
@[simp] theorem State.raise_turns (s : State) (i : Instr) (c : ErrCode) : (s.raise i c).turns = s.turns := rfl
@[simp] theorem State.raise_dirty (s : State) (i : Instr) (c : ErrCode) : (s.raise i c).dirty = s.dirty := rfl
@[simp] theorem State.raise_contested (s : State) (i : Instr) (c : ErrCode) : (s.raise i c).contested = s.contested := rfl
@[simp] theorem State.raise_stale (s : State) (i : Instr) (c : ErrCode) : (s.raise i c).stale = s.stale := rfl
@[simp] theorem State.raise_unseen (s : State) (i : Instr) (c : ErrCode) : (s.raise i c).unseen = s.unseen := rfl
@[simp] theorem State.raise_raced (s : State) (i : Instr) (c : ErrCode) : (s.raise i c).raced = [] := rfl
@[simp] theorem State.raise_draws (s : State) (i : Instr) (c : ErrCode) : (s.raise i c).draws = s.draws + 1 := rfl

/-! ### State.engineStore -/

@[simp] theorem State.engineStore_ctrl (s : State) (a : Nat) (bs : List Byte) : (s.engineStore a bs).ctrl = s.ctrl := rfl
@[simp] theorem State.engineStore_status (s : State) (a : Nat) (bs : List Byte) : (s.engineStore a bs).status = s.status := rfl
@[simp] theorem State.engineStore_regs (s : State) (a : Nat) (bs : List Byte) : (s.engineStore a bs).regs = s.regs := rfl
@[simp] theorem State.engineStore_crcRes (s : State) (a : Nat) (bs : List Byte) : (s.engineStore a bs).crcRes = s.crcRes := rfl
@[simp] theorem State.engineStore_tblIdx (s : State) (a : Nat) (bs : List Byte) : (s.engineStore a bs).tblIdx = s.tblIdx := rfl
@[simp] theorem State.engineStore_table (s : State) (a : Nat) (bs : List Byte) : (s.engineStore a bs).table = s.table := rfl
@[simp] theorem State.engineStore_inflight (s : State) (a : Nat) (bs : List Byte) : (s.engineStore a bs).inflight = s.inflight := rfl
@[simp] theorem State.engineStore_mem (s : State) (a : Nat) (bs : List Byte) : (s.engineStore a bs).mem = s.mem.writeBytes a (s.landed a bs) := rfl
@[simp] theorem State.engineStore_platform (s : State) (a : Nat) (bs : List Byte) : (s.engineStore a bs).platform = s.platform := rfl
@[simp] theorem State.engineStore_agents (s : State) (a : Nat) (bs : List Byte) : (s.engineStore a bs).agents = s.agents := rfl
@[simp] theorem State.engineStore_turns (s : State) (a : Nat) (bs : List Byte) : (s.engineStore a bs).turns = s.turns := rfl
@[simp] theorem State.engineStore_dirty (s : State) (a : Nat) (bs : List Byte) : (s.engineStore a bs).dirty = s.dirty := rfl
@[simp] theorem State.engineStore_contested (s : State) (a : Nat) (bs : List Byte) : (s.engineStore a bs).contested = s.contestedAfter a bs.length := by simp [State.engineStore, State.engineWrite]
@[simp] theorem State.engineStore_stale (s : State) (a : Nat) (bs : List Byte) : (s.engineStore a bs).stale = s.staleAfter a bs.length := by simp [State.engineStore, State.engineWrite]
@[simp] theorem State.engineStore_unseen (s : State) (a : Nat) (bs : List Byte) : (s.engineStore a bs).unseen = s.unseenAfter a bs.length := by simp [State.engineStore, State.engineWrite]
@[simp] theorem State.engineStore_raced (s : State) (a : Nat) (bs : List Byte) : (s.engineStore a bs).raced = s.raced := rfl
@[simp] theorem State.engineStore_draws (s : State) (a : Nat) (bs : List Byte) : (s.engineStore a bs).draws = s.draws := rfl

/-! ### State.scramble -/

@[simp] theorem State.scramble_ctrl (s : State) (a n : Nat) : (s.scramble a n).ctrl = s.ctrl := rfl
@[simp] theorem State.scramble_status (s : State) (a n : Nat) : (s.scramble a n).status = s.status := rfl
@[simp] theorem State.scramble_regs (s : State) (a n : Nat) : (s.scramble a n).regs = s.regs := rfl
@[simp] theorem State.scramble_crcRes (s : State) (a n : Nat) : (s.scramble a n).crcRes = s.crcRes := rfl
@[simp] theorem State.scramble_tblIdx (s : State) (a n : Nat) : (s.scramble a n).tblIdx = s.tblIdx := rfl
@[simp] theorem State.scramble_table (s : State) (a n : Nat) : (s.scramble a n).table = s.table := rfl
@[simp] theorem State.scramble_inflight (s : State) (a n : Nat) : (s.scramble a n).inflight = s.inflight := rfl
@[simp] theorem State.scramble_mem (s : State) (a n : Nat) : (s.scramble a n).mem = s.mem.writeBytes a (freeBytes s.draws a n) := rfl
@[simp] theorem State.scramble_platform (s : State) (a n : Nat) : (s.scramble a n).platform = s.platform := rfl
@[simp] theorem State.scramble_agents (s : State) (a n : Nat) : (s.scramble a n).agents = s.agents := rfl
@[simp] theorem State.scramble_turns (s : State) (a n : Nat) : (s.scramble a n).turns = s.turns := rfl
@[simp] theorem State.scramble_dirty (s : State) (a n : Nat) : (s.scramble a n).dirty = s.dirty := rfl
@[simp] theorem State.scramble_contested (s : State) (a n : Nat) : (s.scramble a n).contested = s.contestedAfter a n := by simp [State.scramble, State.engineWrite]
@[simp] theorem State.scramble_stale (s : State) (a n : Nat) : (s.scramble a n).stale = s.staleAfter a n := by simp [State.scramble, State.engineWrite]
@[simp] theorem State.scramble_unseen (s : State) (a n : Nat) : (s.scramble a n).unseen = s.unseenAfter a n := by simp [State.scramble, State.engineWrite]
@[simp] theorem State.scramble_raced (s : State) (a n : Nat) : (s.scramble a n).raced = s.raced := rfl
@[simp] theorem State.scramble_draws (s : State) (a n : Nat) : (s.scramble a n).draws = s.draws := rfl

/-! ### State.crcResult -/

@[simp] theorem State.crcResult_ctrl (s : State) (init final : Bool) (bs : List Byte) : (s.crcResult init final bs).ctrl = s.ctrl := rfl
@[simp] theorem State.crcResult_status (s : State) (init final : Bool) (bs : List Byte) : (s.crcResult init final bs).status = s.status := rfl
@[simp] theorem State.crcResult_regs (s : State) (init final : Bool) (bs : List Byte) : (s.crcResult init final bs).regs = { s.regs with crcAcc := crcFold s.table (if init then crcSeed else s.operands.regs.crcAcc) bs } := rfl
@[simp] theorem State.crcResult_crcRes (s : State) (init final : Bool) (bs : List Byte) : (s.crcResult init final bs).crcRes = if final then ~~~(crcFold s.table (if init then crcSeed else s.operands.regs.crcAcc) bs) else s.crcRes := rfl
@[simp] theorem State.crcResult_tblIdx (s : State) (init final : Bool) (bs : List Byte) : (s.crcResult init final bs).tblIdx = s.tblIdx := rfl
@[simp] theorem State.crcResult_table (s : State) (init final : Bool) (bs : List Byte) : (s.crcResult init final bs).table = s.table := rfl
@[simp] theorem State.crcResult_inflight (s : State) (init final : Bool) (bs : List Byte) : (s.crcResult init final bs).inflight = s.inflight := rfl
@[simp] theorem State.crcResult_mem (s : State) (init final : Bool) (bs : List Byte) : (s.crcResult init final bs).mem = s.mem := rfl
@[simp] theorem State.crcResult_platform (s : State) (init final : Bool) (bs : List Byte) : (s.crcResult init final bs).platform = s.platform := rfl
@[simp] theorem State.crcResult_agents (s : State) (init final : Bool) (bs : List Byte) : (s.crcResult init final bs).agents = s.agents := rfl
@[simp] theorem State.crcResult_turns (s : State) (init final : Bool) (bs : List Byte) : (s.crcResult init final bs).turns = s.turns := rfl
@[simp] theorem State.crcResult_dirty (s : State) (init final : Bool) (bs : List Byte) : (s.crcResult init final bs).dirty = s.dirty := rfl
@[simp] theorem State.crcResult_contested (s : State) (init final : Bool) (bs : List Byte) : (s.crcResult init final bs).contested = s.contested := rfl
@[simp] theorem State.crcResult_stale (s : State) (init final : Bool) (bs : List Byte) : (s.crcResult init final bs).stale = s.stale := rfl
@[simp] theorem State.crcResult_unseen (s : State) (init final : Bool) (bs : List Byte) : (s.crcResult init final bs).unseen = s.unseen := rfl
@[simp] theorem State.crcResult_raced (s : State) (init final : Bool) (bs : List Byte) : (s.crcResult init final bs).raced = s.raced := rfl
@[simp] theorem State.crcResult_draws (s : State) (init final : Bool) (bs : List Byte) : (s.crcResult init final bs).draws = s.draws := rfl

/-! ### State.advanceDst -/

@[simp] theorem State.advanceDst_ctrl (s : State) (n : Nat) : (s.advanceDst n).ctrl = s.ctrl := rfl
@[simp] theorem State.advanceDst_status (s : State) (n : Nat) : (s.advanceDst n).status = s.status := rfl
@[simp] theorem State.advanceDst_regs (s : State) (n : Nat) : (s.advanceDst n).regs = { s.regs with dstCur := BitVec.ofNat 32 (s.operands.regs.dstCur.toNat + n) } := rfl
@[simp] theorem State.advanceDst_crcRes (s : State) (n : Nat) : (s.advanceDst n).crcRes = s.crcRes := rfl
@[simp] theorem State.advanceDst_tblIdx (s : State) (n : Nat) : (s.advanceDst n).tblIdx = s.tblIdx := rfl
@[simp] theorem State.advanceDst_table (s : State) (n : Nat) : (s.advanceDst n).table = s.table := rfl
@[simp] theorem State.advanceDst_inflight (s : State) (n : Nat) : (s.advanceDst n).inflight = s.inflight := rfl
@[simp] theorem State.advanceDst_mem (s : State) (n : Nat) : (s.advanceDst n).mem = s.mem := rfl
@[simp] theorem State.advanceDst_platform (s : State) (n : Nat) : (s.advanceDst n).platform = s.platform := rfl
@[simp] theorem State.advanceDst_agents (s : State) (n : Nat) : (s.advanceDst n).agents = s.agents := rfl
@[simp] theorem State.advanceDst_turns (s : State) (n : Nat) : (s.advanceDst n).turns = s.turns := rfl
@[simp] theorem State.advanceDst_dirty (s : State) (n : Nat) : (s.advanceDst n).dirty = s.dirty := rfl
@[simp] theorem State.advanceDst_contested (s : State) (n : Nat) : (s.advanceDst n).contested = s.contested := rfl
@[simp] theorem State.advanceDst_stale (s : State) (n : Nat) : (s.advanceDst n).stale = s.stale := rfl
@[simp] theorem State.advanceDst_unseen (s : State) (n : Nat) : (s.advanceDst n).unseen = s.unseen := rfl
@[simp] theorem State.advanceDst_raced (s : State) (n : Nat) : (s.advanceDst n).raced = s.raced := rfl
@[simp] theorem State.advanceDst_draws (s : State) (n : Nat) : (s.advanceDst n).draws = s.draws := rfl

/-! ### State.mkchunkResult -/

@[simp] theorem State.mkchunkResult_ctrl (s : State) (d : List Byte) : (s.mkchunkResult d).ctrl = s.ctrl := rfl
@[simp] theorem State.mkchunkResult_status (s : State) (d : List Byte) : (s.mkchunkResult d).status = s.status := rfl
@[simp] theorem State.mkchunkResult_regs (s : State) (d : List Byte) : (s.mkchunkResult d).regs = { s.regs with chSize := s.operands.regs.chDlen, chCrc := crc32 s.table (tagBytes s.operands.regs.chType ++ d) } := rfl
@[simp] theorem State.mkchunkResult_crcRes (s : State) (d : List Byte) : (s.mkchunkResult d).crcRes = s.crcRes := rfl
@[simp] theorem State.mkchunkResult_tblIdx (s : State) (d : List Byte) : (s.mkchunkResult d).tblIdx = s.tblIdx := rfl
@[simp] theorem State.mkchunkResult_table (s : State) (d : List Byte) : (s.mkchunkResult d).table = s.table := rfl
@[simp] theorem State.mkchunkResult_inflight (s : State) (d : List Byte) : (s.mkchunkResult d).inflight = s.inflight := rfl
@[simp] theorem State.mkchunkResult_mem (s : State) (d : List Byte) : (s.mkchunkResult d).mem = s.mem := rfl
@[simp] theorem State.mkchunkResult_platform (s : State) (d : List Byte) : (s.mkchunkResult d).platform = s.platform := rfl
@[simp] theorem State.mkchunkResult_agents (s : State) (d : List Byte) : (s.mkchunkResult d).agents = s.agents := rfl
@[simp] theorem State.mkchunkResult_turns (s : State) (d : List Byte) : (s.mkchunkResult d).turns = s.turns := rfl
@[simp] theorem State.mkchunkResult_dirty (s : State) (d : List Byte) : (s.mkchunkResult d).dirty = s.dirty := rfl
@[simp] theorem State.mkchunkResult_contested (s : State) (d : List Byte) : (s.mkchunkResult d).contested = s.contested := rfl
@[simp] theorem State.mkchunkResult_stale (s : State) (d : List Byte) : (s.mkchunkResult d).stale = s.stale := rfl
@[simp] theorem State.mkchunkResult_unseen (s : State) (d : List Byte) : (s.mkchunkResult d).unseen = s.unseen := rfl
@[simp] theorem State.mkchunkResult_raced (s : State) (d : List Byte) : (s.mkchunkResult d).raced = s.raced := rfl
@[simp] theorem State.mkchunkResult_draws (s : State) (d : List Byte) : (s.mkchunkResult d).draws = s.draws := rfl

/-! ### State.sigchkResult -/

@[simp] theorem State.sigchkResult_ctrl (s : State) (v : Bool) : (s.sigchkResult v).ctrl = s.ctrl := rfl
@[simp] theorem State.sigchkResult_status (s : State) (v : Bool) : (s.sigchkResult v).status = (s.status.withSigok v).completed .ok := rfl
@[simp] theorem State.sigchkResult_regs (s : State) (v : Bool) : (s.sigchkResult v).regs = s.regs := rfl
@[simp] theorem State.sigchkResult_crcRes (s : State) (v : Bool) : (s.sigchkResult v).crcRes = s.crcRes := rfl
@[simp] theorem State.sigchkResult_tblIdx (s : State) (v : Bool) : (s.sigchkResult v).tblIdx = s.tblIdx := rfl
@[simp] theorem State.sigchkResult_table (s : State) (v : Bool) : (s.sigchkResult v).table = s.table := rfl
@[simp] theorem State.sigchkResult_inflight (s : State) (v : Bool) : (s.sigchkResult v).inflight = none := rfl
@[simp] theorem State.sigchkResult_mem (s : State) (v : Bool) : (s.sigchkResult v).mem = s.mem := rfl
@[simp] theorem State.sigchkResult_platform (s : State) (v : Bool) : (s.sigchkResult v).platform = s.platform := rfl
@[simp] theorem State.sigchkResult_agents (s : State) (v : Bool) : (s.sigchkResult v).agents = s.agents := rfl
@[simp] theorem State.sigchkResult_turns (s : State) (v : Bool) : (s.sigchkResult v).turns = s.turns := rfl
@[simp] theorem State.sigchkResult_dirty (s : State) (v : Bool) : (s.sigchkResult v).dirty = s.dirty := rfl
@[simp] theorem State.sigchkResult_contested (s : State) (v : Bool) : (s.sigchkResult v).contested = s.contested := rfl
@[simp] theorem State.sigchkResult_stale (s : State) (v : Bool) : (s.sigchkResult v).stale = s.stale := rfl
@[simp] theorem State.sigchkResult_unseen (s : State) (v : Bool) : (s.sigchkResult v).unseen = s.unseen := rfl
@[simp] theorem State.sigchkResult_raced (s : State) (v : Bool) : (s.sigchkResult v).raced = [] := rfl
@[simp] theorem State.sigchkResult_draws (s : State) (v : Bool) : (s.sigchkResult v).draws = s.draws + 1 := rfl

/-! ### State.parseStop -/

@[simp] theorem State.parseStop_ctrl (s : State) : (s.parseStop).ctrl = s.ctrl := rfl
@[simp] theorem State.parseStop_status (s : State) : (s.parseStop).status = (s.status.withParse true false).completed .ok := rfl
@[simp] theorem State.parseStop_regs (s : State) : (s.parseStop).regs = s.regs := rfl
@[simp] theorem State.parseStop_crcRes (s : State) : (s.parseStop).crcRes = s.crcRes := rfl
@[simp] theorem State.parseStop_tblIdx (s : State) : (s.parseStop).tblIdx = s.tblIdx := rfl
@[simp] theorem State.parseStop_table (s : State) : (s.parseStop).table = s.table := rfl
@[simp] theorem State.parseStop_inflight (s : State) : (s.parseStop).inflight = none := rfl
@[simp] theorem State.parseStop_mem (s : State) : (s.parseStop).mem = s.mem := rfl
@[simp] theorem State.parseStop_platform (s : State) : (s.parseStop).platform = s.platform := rfl
@[simp] theorem State.parseStop_agents (s : State) : (s.parseStop).agents = s.agents := rfl
@[simp] theorem State.parseStop_turns (s : State) : (s.parseStop).turns = s.turns := rfl
@[simp] theorem State.parseStop_dirty (s : State) : (s.parseStop).dirty = s.dirty := rfl
@[simp] theorem State.parseStop_contested (s : State) : (s.parseStop).contested = s.contested := rfl
@[simp] theorem State.parseStop_stale (s : State) : (s.parseStop).stale = s.stale := rfl
@[simp] theorem State.parseStop_unseen (s : State) : (s.parseStop).unseen = s.unseen := rfl
@[simp] theorem State.parseStop_raced (s : State) : (s.parseStop).raced = [] := rfl
@[simp] theorem State.parseStop_draws (s : State) : (s.parseStop).draws = s.draws + 1 := rfl

/-! ### State.parseChunk -/

@[simp] theorem State.parseChunk_ctrl (s : State) (h : List Byte) (crc : Word) (bad : Bool) : (s.parseChunk h crc bad).ctrl = s.ctrl := rfl
@[simp] theorem State.parseChunk_status (s : State) (h : List Byte) (crc : Word) (bad : Bool) : (s.parseChunk h crc bad).status = (s.status.withParse false bad).completed .ok := rfl
@[simp] theorem State.parseChunk_regs (s : State) (h : List Byte) (crc : Word) (bad : Bool) : (s.parseChunk h crc bad).regs = { s.regs with chSize := be32At h 0, chType := packTag (byteAt h 4) (byteAt h 5) (byteAt h 6) (byteAt h 7), chDaddr := BitVec.ofNat 32 (s.operands.regs.srcAddr + 8), chDlen := be32At h 0, chCrc := crc, srcCur := BitVec.ofNat 32 (s.operands.regs.srcCur.toNat + 12 + (be32At h 0).toNat) } := rfl
@[simp] theorem State.parseChunk_crcRes (s : State) (h : List Byte) (crc : Word) (bad : Bool) : (s.parseChunk h crc bad).crcRes = s.crcRes := rfl
@[simp] theorem State.parseChunk_tblIdx (s : State) (h : List Byte) (crc : Word) (bad : Bool) : (s.parseChunk h crc bad).tblIdx = s.tblIdx := rfl
@[simp] theorem State.parseChunk_table (s : State) (h : List Byte) (crc : Word) (bad : Bool) : (s.parseChunk h crc bad).table = s.table := rfl
@[simp] theorem State.parseChunk_inflight (s : State) (h : List Byte) (crc : Word) (bad : Bool) : (s.parseChunk h crc bad).inflight = none := rfl
@[simp] theorem State.parseChunk_mem (s : State) (h : List Byte) (crc : Word) (bad : Bool) : (s.parseChunk h crc bad).mem = s.mem := rfl
@[simp] theorem State.parseChunk_platform (s : State) (h : List Byte) (crc : Word) (bad : Bool) : (s.parseChunk h crc bad).platform = s.platform := rfl
@[simp] theorem State.parseChunk_agents (s : State) (h : List Byte) (crc : Word) (bad : Bool) : (s.parseChunk h crc bad).agents = s.agents := rfl
@[simp] theorem State.parseChunk_turns (s : State) (h : List Byte) (crc : Word) (bad : Bool) : (s.parseChunk h crc bad).turns = s.turns := rfl
@[simp] theorem State.parseChunk_dirty (s : State) (h : List Byte) (crc : Word) (bad : Bool) : (s.parseChunk h crc bad).dirty = s.dirty := rfl
@[simp] theorem State.parseChunk_contested (s : State) (h : List Byte) (crc : Word) (bad : Bool) : (s.parseChunk h crc bad).contested = s.contested := rfl
@[simp] theorem State.parseChunk_stale (s : State) (h : List Byte) (crc : Word) (bad : Bool) : (s.parseChunk h crc bad).stale = s.stale := rfl
@[simp] theorem State.parseChunk_unseen (s : State) (h : List Byte) (crc : Word) (bad : Bool) : (s.parseChunk h crc bad).unseen = s.unseen := rfl
@[simp] theorem State.parseChunk_raced (s : State) (h : List Byte) (crc : Word) (bad : Bool) : (s.parseChunk h crc bad).raced = [] := rfl
@[simp] theorem State.parseChunk_draws (s : State) (h : List Byte) (crc : Word) (bad : Bool) : (s.parseChunk h crc bad).draws = s.draws + 1 := rfl

/-! ### State.accept -/

@[simp] theorem State.accept_ctrl (s : State) (w : Word) : (s.accept w).ctrl = s.ctrl := rfl
@[simp] theorem State.accept_status (s : State) (w : Word) : (s.accept w).status = s.status.accepted := rfl
@[simp] theorem State.accept_regs (s : State) (w : Word) : (s.accept w).regs = s.regs := rfl
@[simp] theorem State.accept_crcRes (s : State) (w : Word) : (s.accept w).crcRes = s.crcRes := rfl
@[simp] theorem State.accept_tblIdx (s : State) (w : Word) : (s.accept w).tblIdx = s.tblIdx := rfl
@[simp] theorem State.accept_table (s : State) (w : Word) : (s.accept w).table = s.table := rfl
@[simp] theorem State.accept_inflight (s : State) (w : Word) : (s.accept w).inflight = some (s.latch w) := rfl
@[simp] theorem State.accept_mem (s : State) (w : Word) : (s.accept w).mem = s.mem := rfl
@[simp] theorem State.accept_platform (s : State) (w : Word) : (s.accept w).platform = s.platform := rfl
@[simp] theorem State.accept_agents (s : State) (w : Word) : (s.accept w).agents = s.agents := rfl
@[simp] theorem State.accept_turns (s : State) (w : Word) : (s.accept w).turns = s.turns := rfl
@[simp] theorem State.accept_dirty (s : State) (w : Word) : (s.accept w).dirty = s.dirty := rfl
@[simp] theorem State.accept_contested (s : State) (w : Word) : (s.accept w).contested = s.contested := rfl
@[simp] theorem State.accept_stale (s : State) (w : Word) : (s.accept w).stale = s.stale := rfl
@[simp] theorem State.accept_unseen (s : State) (w : Word) : (s.accept w).unseen = s.unseen := rfl
@[simp] theorem State.accept_raced (s : State) (w : Word) : (s.accept w).raced = [] := rfl
@[simp] theorem State.accept_draws (s : State) (w : Word) : (s.accept w).draws = s.draws := rfl

/-! ### State.dropWrite -/

@[simp] theorem State.dropWrite_ctrl (s : State) : (s.dropWrite).ctrl = s.ctrl := rfl
@[simp] theorem State.dropWrite_status (s : State) : (s.dropWrite).status = s.status.dropped := rfl
@[simp] theorem State.dropWrite_regs (s : State) : (s.dropWrite).regs = s.regs := rfl
@[simp] theorem State.dropWrite_crcRes (s : State) : (s.dropWrite).crcRes = s.crcRes := rfl
@[simp] theorem State.dropWrite_tblIdx (s : State) : (s.dropWrite).tblIdx = s.tblIdx := rfl
@[simp] theorem State.dropWrite_table (s : State) : (s.dropWrite).table = s.table := rfl
@[simp] theorem State.dropWrite_inflight (s : State) : (s.dropWrite).inflight = s.inflight := rfl
@[simp] theorem State.dropWrite_mem (s : State) : (s.dropWrite).mem = s.mem := rfl
@[simp] theorem State.dropWrite_platform (s : State) : (s.dropWrite).platform = s.platform := rfl
@[simp] theorem State.dropWrite_agents (s : State) : (s.dropWrite).agents = s.agents := rfl
@[simp] theorem State.dropWrite_turns (s : State) : (s.dropWrite).turns = s.turns := rfl
@[simp] theorem State.dropWrite_dirty (s : State) : (s.dropWrite).dirty = s.dirty := rfl
@[simp] theorem State.dropWrite_contested (s : State) : (s.dropWrite).contested = s.contested := rfl
@[simp] theorem State.dropWrite_stale (s : State) : (s.dropWrite).stale = s.stale := rfl
@[simp] theorem State.dropWrite_unseen (s : State) : (s.dropWrite).unseen = s.unseen := rfl
@[simp] theorem State.dropWrite_raced (s : State) : (s.dropWrite).raced = s.raced := rfl
@[simp] theorem State.dropWrite_draws (s : State) : (s.dropWrite).draws = s.draws := rfl

/-! ### State.builderStep -/

@[simp] theorem State.builderStep_ctrl (s : State) : (s.builderStep).ctrl = s.ctrl := rfl
@[simp] theorem State.builderStep_regs (s : State) : (s.builderStep).regs = s.regs := rfl
@[simp] theorem State.builderStep_crcRes (s : State) : (s.builderStep).crcRes = s.crcRes := rfl
@[simp] theorem State.builderStep_tblIdx (s : State) : (s.builderStep).tblIdx = s.tblIdx := rfl
@[simp] theorem State.builderStep_inflight (s : State) : (s.builderStep).inflight = s.inflight := rfl
@[simp] theorem State.builderStep_mem (s : State) : (s.builderStep).mem = s.mem := rfl
@[simp] theorem State.builderStep_platform (s : State) : (s.builderStep).platform = s.platform := rfl
@[simp] theorem State.builderStep_agents (s : State) : (s.builderStep).agents = s.agents := rfl
@[simp] theorem State.builderStep_turns (s : State) : (s.builderStep).turns = s.turns := rfl
@[simp] theorem State.builderStep_dirty (s : State) : (s.builderStep).dirty = s.dirty := rfl
@[simp] theorem State.builderStep_contested (s : State) : (s.builderStep).contested = s.contested := rfl
@[simp] theorem State.builderStep_stale (s : State) : (s.builderStep).stale = s.stale := rfl
@[simp] theorem State.builderStep_unseen (s : State) : (s.builderStep).unseen = s.unseen := rfl
@[simp] theorem State.builderStep_raced (s : State) : (s.builderStep).raced = s.raced := rfl
@[simp] theorem State.builderStep_draws (s : State) : (s.builderStep).draws = s.draws := rfl

/-! ### State.updAgent -/

@[simp] theorem State.updAgent_ctrl (s : State) (k : Nat) (f : HostAgent → HostAgent) : (s.updAgent k f).ctrl = s.ctrl := rfl
@[simp] theorem State.updAgent_status (s : State) (k : Nat) (f : HostAgent → HostAgent) : (s.updAgent k f).status = s.status := rfl
@[simp] theorem State.updAgent_regs (s : State) (k : Nat) (f : HostAgent → HostAgent) : (s.updAgent k f).regs = s.regs := rfl
@[simp] theorem State.updAgent_crcRes (s : State) (k : Nat) (f : HostAgent → HostAgent) : (s.updAgent k f).crcRes = s.crcRes := rfl
@[simp] theorem State.updAgent_tblIdx (s : State) (k : Nat) (f : HostAgent → HostAgent) : (s.updAgent k f).tblIdx = s.tblIdx := rfl
@[simp] theorem State.updAgent_table (s : State) (k : Nat) (f : HostAgent → HostAgent) : (s.updAgent k f).table = s.table := rfl
@[simp] theorem State.updAgent_inflight (s : State) (k : Nat) (f : HostAgent → HostAgent) : (s.updAgent k f).inflight = s.inflight := rfl
@[simp] theorem State.updAgent_mem (s : State) (k : Nat) (f : HostAgent → HostAgent) : (s.updAgent k f).mem = s.mem := rfl
@[simp] theorem State.updAgent_platform (s : State) (k : Nat) (f : HostAgent → HostAgent) : (s.updAgent k f).platform = s.platform := rfl
@[simp] theorem State.updAgent_agents (s : State) (k : Nat) (f : HostAgent → HostAgent) : (s.updAgent k f).agents = s.agents.modify k f := rfl
@[simp] theorem State.updAgent_turns (s : State) (k : Nat) (f : HostAgent → HostAgent) : (s.updAgent k f).turns = s.turns := rfl
@[simp] theorem State.updAgent_dirty (s : State) (k : Nat) (f : HostAgent → HostAgent) : (s.updAgent k f).dirty = s.dirty := rfl
@[simp] theorem State.updAgent_contested (s : State) (k : Nat) (f : HostAgent → HostAgent) : (s.updAgent k f).contested = s.contested := rfl
@[simp] theorem State.updAgent_stale (s : State) (k : Nat) (f : HostAgent → HostAgent) : (s.updAgent k f).stale = s.stale := rfl
@[simp] theorem State.updAgent_unseen (s : State) (k : Nat) (f : HostAgent → HostAgent) : (s.updAgent k f).unseen = s.unseen := rfl
@[simp] theorem State.updAgent_raced (s : State) (k : Nat) (f : HostAgent → HostAgent) : (s.updAgent k f).raced = s.raced := rfl
@[simp] theorem State.updAgent_draws (s : State) (k : Nat) (f : HostAgent → HostAgent) : (s.updAgent k f).draws = s.draws := rfl

/-! ### State.loadProgram -/

@[simp] theorem State.loadProgram_ctrl (s : State) (k : Nat) (p : HostProgram) : (s.loadProgram k p).ctrl = s.ctrl := rfl
@[simp] theorem State.loadProgram_status (s : State) (k : Nat) (p : HostProgram) : (s.loadProgram k p).status = s.status := rfl
@[simp] theorem State.loadProgram_regs (s : State) (k : Nat) (p : HostProgram) : (s.loadProgram k p).regs = s.regs := rfl
@[simp] theorem State.loadProgram_crcRes (s : State) (k : Nat) (p : HostProgram) : (s.loadProgram k p).crcRes = s.crcRes := rfl
@[simp] theorem State.loadProgram_tblIdx (s : State) (k : Nat) (p : HostProgram) : (s.loadProgram k p).tblIdx = s.tblIdx := rfl
@[simp] theorem State.loadProgram_table (s : State) (k : Nat) (p : HostProgram) : (s.loadProgram k p).table = s.table := rfl
@[simp] theorem State.loadProgram_inflight (s : State) (k : Nat) (p : HostProgram) : (s.loadProgram k p).inflight = s.inflight := rfl
@[simp] theorem State.loadProgram_platform (s : State) (k : Nat) (p : HostProgram) : (s.loadProgram k p).platform = s.platform := rfl
@[simp] theorem State.loadProgram_turns (s : State) (k : Nat) (p : HostProgram) : (s.loadProgram k p).turns = s.turns := rfl
@[simp] theorem State.loadProgram_dirty (s : State) (k : Nat) (p : HostProgram) : (s.loadProgram k p).dirty = s.dirty := rfl
@[simp] theorem State.loadProgram_contested (s : State) (k : Nat) (p : HostProgram) : (s.loadProgram k p).contested = s.contested := rfl
@[simp] theorem State.loadProgram_stale (s : State) (k : Nat) (p : HostProgram) : (s.loadProgram k p).stale = s.stale := rfl
@[simp] theorem State.loadProgram_unseen (s : State) (k : Nat) (p : HostProgram) : (s.loadProgram k p).unseen = s.unseen := rfl
@[simp] theorem State.loadProgram_raced (s : State) (k : Nat) (p : HostProgram) : (s.loadProgram k p).raced = s.raced := rfl
@[simp] theorem State.loadProgram_draws (s : State) (k : Nat) (p : HostProgram) : (s.loadProgram k p).draws = s.draws := rfl

/-! ### State.afterLoad -/

@[simp] theorem State.afterLoad_ctrl (s : State) (a : Nat) : (s.afterLoad a).ctrl = s.ctrl := rfl
@[simp] theorem State.afterLoad_status (s : State) (a : Nat) : (s.afterLoad a).status = s.status := rfl
@[simp] theorem State.afterLoad_regs (s : State) (a : Nat) : (s.afterLoad a).regs = s.regs := rfl
@[simp] theorem State.afterLoad_crcRes (s : State) (a : Nat) : (s.afterLoad a).crcRes = s.crcRes := rfl
@[simp] theorem State.afterLoad_tblIdx (s : State) (a : Nat) : (s.afterLoad a).tblIdx = s.tblIdx := rfl
@[simp] theorem State.afterLoad_table (s : State) (a : Nat) : (s.afterLoad a).table = s.table := rfl
@[simp] theorem State.afterLoad_inflight (s : State) (a : Nat) : (s.afterLoad a).inflight = s.inflight := rfl
@[simp] theorem State.afterLoad_mem (s : State) (a : Nat) : (s.afterLoad a).mem = s.mem := rfl
@[simp] theorem State.afterLoad_platform (s : State) (a : Nat) : (s.afterLoad a).platform = s.platform := rfl
@[simp] theorem State.afterLoad_agents (s : State) (a : Nat) : (s.afterLoad a).agents = s.agents := rfl
@[simp] theorem State.afterLoad_turns (s : State) (a : Nat) : (s.afterLoad a).turns = s.turns := rfl
@[simp] theorem State.afterLoad_dirty (s : State) (a : Nat) : (s.afterLoad a).dirty = s.dirty := rfl
@[simp] theorem State.afterLoad_contested (s : State) (a : Nat) : (s.afterLoad a).contested = s.contested := rfl
@[simp] theorem State.afterLoad_stale (s : State) (a : Nat) : (s.afterLoad a).stale = s.stale := rfl
@[simp] theorem State.afterLoad_unseen (s : State) (a : Nat) : (s.afterLoad a).unseen = s.unseen := rfl
@[simp] theorem State.afterLoad_draws (s : State) (a : Nat) : (s.afterLoad a).draws = s.draws + 1 := rfl

/-! ### State.hostStore -/

@[simp] theorem State.hostStore_ctrl (s : State) (a : Nat) (v : Byte) : (s.hostStore a v).ctrl = s.ctrl := rfl
@[simp] theorem State.hostStore_status (s : State) (a : Nat) (v : Byte) : (s.hostStore a v).status = s.status := rfl
@[simp] theorem State.hostStore_regs (s : State) (a : Nat) (v : Byte) : (s.hostStore a v).regs = s.regs := rfl
@[simp] theorem State.hostStore_crcRes (s : State) (a : Nat) (v : Byte) : (s.hostStore a v).crcRes = s.crcRes := rfl
@[simp] theorem State.hostStore_tblIdx (s : State) (a : Nat) (v : Byte) : (s.hostStore a v).tblIdx = s.tblIdx := rfl
@[simp] theorem State.hostStore_table (s : State) (a : Nat) (v : Byte) : (s.hostStore a v).table = s.table := rfl
@[simp] theorem State.hostStore_inflight (s : State) (a : Nat) (v : Byte) : (s.hostStore a v).inflight = s.inflight := rfl
@[simp] theorem State.hostStore_mem (s : State) (a : Nat) (v : Byte) : (s.hostStore a v).mem = if s.platform.coherent then s.mem.write a v else s.mem := rfl
@[simp] theorem State.hostStore_platform (s : State) (a : Nat) (v : Byte) : (s.hostStore a v).platform = s.platform := rfl
@[simp] theorem State.hostStore_agents (s : State) (a : Nat) (v : Byte) : (s.hostStore a v).agents = s.agents := rfl
@[simp] theorem State.hostStore_turns (s : State) (a : Nat) (v : Byte) : (s.hostStore a v).turns = s.turns := rfl
@[simp] theorem State.hostStore_dirty (s : State) (a : Nat) (v : Byte) : (s.hostStore a v).dirty = if s.platform.coherent then s.dirty else putCell s.dirty a v := rfl
@[simp] theorem State.hostStore_contested (s : State) (a : Nat) (v : Byte) : (s.hostStore a v).contested = s.contested.filter (fun x => x != a) := rfl
@[simp] theorem State.hostStore_stale (s : State) (a : Nat) (v : Byte) : (s.hostStore a v).stale = s.stale := rfl
@[simp] theorem State.hostStore_unseen (s : State) (a : Nat) (v : Byte) : (s.hostStore a v).unseen = s.unseen := rfl
@[simp] theorem State.hostStore_raced (s : State) (a : Nat) (v : Byte) : (s.hostStore a v).raced = s.raceList a := rfl
@[simp] theorem State.hostStore_draws (s : State) (a : Nat) (v : Byte) : (s.hostStore a v).draws = s.draws := rfl

/-! ### State.abandon -/

@[simp] theorem State.abandon_ctrl (s : State) : (s.abandon).ctrl = s.ctrl := by unfold State.abandon; split <;> rfl
@[simp] theorem State.abandon_status (s : State) : (s.abandon).status = s.status := by unfold State.abandon; split <;> rfl
@[simp] theorem State.abandon_regs (s : State) : (s.abandon).regs = s.regs := by unfold State.abandon; split <;> rfl
@[simp] theorem State.abandon_crcRes (s : State) : (s.abandon).crcRes = s.crcRes := by unfold State.abandon; split <;> rfl
@[simp] theorem State.abandon_tblIdx (s : State) : (s.abandon).tblIdx = s.tblIdx := by unfold State.abandon; split <;> rfl
@[simp] theorem State.abandon_table (s : State) : (s.abandon).table = s.table := by unfold State.abandon; split <;> rfl
@[simp] theorem State.abandon_inflight (s : State) : (s.abandon).inflight = s.inflight := by unfold State.abandon; split <;> rfl
@[simp] theorem State.abandon_platform (s : State) : (s.abandon).platform = s.platform := by unfold State.abandon; split <;> rfl
@[simp] theorem State.abandon_agents (s : State) : (s.abandon).agents = s.agents := by unfold State.abandon; split <;> rfl
@[simp] theorem State.abandon_turns (s : State) : (s.abandon).turns = s.turns := by unfold State.abandon; split <;> rfl
@[simp] theorem State.abandon_dirty (s : State) : (s.abandon).dirty = s.dirty := by unfold State.abandon; split <;> rfl
@[simp] theorem State.abandon_raced (s : State) : (s.abandon).raced = s.raced := by unfold State.abandon; split <;> rfl
@[simp] theorem State.abandon_draws (s : State) : (s.abandon).draws = s.draws := by unfold State.abandon; split <;> rfl

/-! ### State.resetInput -/

@[simp] theorem State.resetInput_ctrl (s : State) : (s.resetInput).ctrl = State.reset.ctrl := by simp [State.resetInput, State.reset]
@[simp] theorem State.resetInput_status (s : State) : (s.resetInput).status = State.reset.status := by simp [State.resetInput, State.reset]
@[simp] theorem State.resetInput_regs (s : State) : (s.resetInput).regs = State.reset.regs := by simp [State.resetInput, State.reset]
@[simp] theorem State.resetInput_crcRes (s : State) : (s.resetInput).crcRes = 0 := by simp [State.resetInput, State.reset]
@[simp] theorem State.resetInput_tblIdx (s : State) : (s.resetInput).tblIdx = 0 := by simp [State.resetInput, State.reset]
@[simp] theorem State.resetInput_table (s : State) : (s.resetInput).table = [] := by simp [State.resetInput, State.reset]
@[simp] theorem State.resetInput_inflight (s : State) : (s.resetInput).inflight = none := by simp [State.resetInput, State.reset]
@[simp] theorem State.resetInput_mem (s : State) : (s.resetInput).mem = s.abandon.mem := by simp [State.resetInput, State.reset]
@[simp] theorem State.resetInput_platform (s : State) : (s.resetInput).platform = s.platform := by simp [State.resetInput, State.reset]
@[simp] theorem State.resetInput_agents (s : State) : (s.resetInput).agents = s.agents := by simp [State.resetInput, State.reset]
@[simp] theorem State.resetInput_turns (s : State) : (s.resetInput).turns = s.turns := by simp [State.resetInput, State.reset]
@[simp] theorem State.resetInput_dirty (s : State) : (s.resetInput).dirty = s.dirty := by simp [State.resetInput, State.reset]
@[simp] theorem State.resetInput_contested (s : State) : (s.resetInput).contested = s.abandon.contested := by simp [State.resetInput, State.reset]
@[simp] theorem State.resetInput_stale (s : State) : (s.resetInput).stale = s.abandon.stale := by simp [State.resetInput, State.reset]
@[simp] theorem State.resetInput_unseen (s : State) : (s.resetInput).unseen = s.abandon.unseen := by simp [State.resetInput, State.reset]
@[simp] theorem State.resetInput_raced (s : State) : (s.resetInput).raced = [] := by simp [State.resetInput, State.reset]
@[simp] theorem State.resetInput_draws (s : State) : (s.resetInput).draws = s.draws + 1 := by simp [State.resetInput, State.reset]

/-! ### State.withTableBuilt -/

@[simp] theorem State.withTableBuilt_ctrl (s : State) : (s.withTableBuilt).ctrl = s.ctrl := rfl
@[simp] theorem State.withTableBuilt_regs (s : State) : (s.withTableBuilt).regs = s.regs := rfl
@[simp] theorem State.withTableBuilt_crcRes (s : State) : (s.withTableBuilt).crcRes = s.crcRes := rfl
@[simp] theorem State.withTableBuilt_tblIdx (s : State) : (s.withTableBuilt).tblIdx = s.tblIdx := rfl
@[simp] theorem State.withTableBuilt_inflight (s : State) : (s.withTableBuilt).inflight = s.inflight := rfl
@[simp] theorem State.withTableBuilt_mem (s : State) : (s.withTableBuilt).mem = s.mem := rfl
@[simp] theorem State.withTableBuilt_platform (s : State) : (s.withTableBuilt).platform = s.platform := rfl
@[simp] theorem State.withTableBuilt_agents (s : State) : (s.withTableBuilt).agents = s.agents := rfl
@[simp] theorem State.withTableBuilt_turns (s : State) : (s.withTableBuilt).turns = s.turns := rfl
@[simp] theorem State.withTableBuilt_dirty (s : State) : (s.withTableBuilt).dirty = s.dirty := rfl
@[simp] theorem State.withTableBuilt_contested (s : State) : (s.withTableBuilt).contested = s.contested := rfl
@[simp] theorem State.withTableBuilt_stale (s : State) : (s.withTableBuilt).stale = s.stale := rfl
@[simp] theorem State.withTableBuilt_unseen (s : State) : (s.withTableBuilt).unseen = s.unseen := rfl
@[simp] theorem State.withTableBuilt_raced (s : State) : (s.withTableBuilt).raced = s.raced := rfl
@[simp] theorem State.withTableBuilt_draws (s : State) : (s.withTableBuilt).draws = s.draws := rfl

/-! ### State.writeBack -/

@[simp] theorem State.writeBack_ctrl (s : State) (c : Host.Cell) : (s.writeBack c).ctrl = s.ctrl := rfl
@[simp] theorem State.writeBack_status (s : State) (c : Host.Cell) : (s.writeBack c).status = s.status := rfl
@[simp] theorem State.writeBack_regs (s : State) (c : Host.Cell) : (s.writeBack c).regs = s.regs := rfl
@[simp] theorem State.writeBack_crcRes (s : State) (c : Host.Cell) : (s.writeBack c).crcRes = s.crcRes := rfl
@[simp] theorem State.writeBack_tblIdx (s : State) (c : Host.Cell) : (s.writeBack c).tblIdx = s.tblIdx := rfl
@[simp] theorem State.writeBack_table (s : State) (c : Host.Cell) : (s.writeBack c).table = s.table := rfl
@[simp] theorem State.writeBack_inflight (s : State) (c : Host.Cell) : (s.writeBack c).inflight = s.inflight := rfl
@[simp] theorem State.writeBack_mem (s : State) (c : Host.Cell) : (s.writeBack c).mem = s.mem.write c.1 c.2 := rfl
@[simp] theorem State.writeBack_platform (s : State) (c : Host.Cell) : (s.writeBack c).platform = s.platform := rfl
@[simp] theorem State.writeBack_agents (s : State) (c : Host.Cell) : (s.writeBack c).agents = s.agents := rfl
@[simp] theorem State.writeBack_turns (s : State) (c : Host.Cell) : (s.writeBack c).turns = s.turns := rfl
@[simp] theorem State.writeBack_dirty (s : State) (c : Host.Cell) : (s.writeBack c).dirty = s.dirty := rfl
@[simp] theorem State.writeBack_contested (s : State) (c : Host.Cell) : (s.writeBack c).contested = s.contested := rfl
@[simp] theorem State.writeBack_stale (s : State) (c : Host.Cell) : (s.writeBack c).stale = s.stale := rfl
@[simp] theorem State.writeBack_unseen (s : State) (c : Host.Cell) : (s.writeBack c).unseen = s.unseen := rfl
@[simp] theorem State.writeBack_raced (s : State) (c : Host.Cell) : (s.writeBack c).raced = s.raceList c.1 := rfl
@[simp] theorem State.writeBack_draws (s : State) (c : Host.Cell) : (s.writeBack c).draws = s.draws := rfl

/-! ### State.observe -/

@[simp] theorem State.observe_ctrl (s : State) (k : Nat) : (s.observe k).ctrl = s.ctrl := rfl
@[simp] theorem State.observe_status (s : State) (k : Nat) : (s.observe k).status = s.status := rfl
@[simp] theorem State.observe_regs (s : State) (k : Nat) : (s.observe k).regs = s.regs := rfl
@[simp] theorem State.observe_crcRes (s : State) (k : Nat) : (s.observe k).crcRes = s.crcRes := rfl
@[simp] theorem State.observe_tblIdx (s : State) (k : Nat) : (s.observe k).tblIdx = s.tblIdx := rfl
@[simp] theorem State.observe_table (s : State) (k : Nat) : (s.observe k).table = s.table := rfl
@[simp] theorem State.observe_inflight (s : State) (k : Nat) : (s.observe k).inflight = s.inflight := rfl
@[simp] theorem State.observe_mem (s : State) (k : Nat) : (s.observe k).mem = s.mem := rfl
@[simp] theorem State.observe_platform (s : State) (k : Nat) : (s.observe k).platform = s.platform := rfl
@[simp] theorem State.observe_agents (s : State) (k : Nat) : (s.observe k).agents = s.agents := rfl
@[simp] theorem State.observe_turns (s : State) (k : Nat) : (s.observe k).turns = s.turns := rfl
@[simp] theorem State.observe_dirty (s : State) (k : Nat) : (s.observe k).dirty = s.dirty := rfl
@[simp] theorem State.observe_contested (s : State) (k : Nat) : (s.observe k).contested = s.contested := rfl
@[simp] theorem State.observe_stale (s : State) (k : Nat) : (s.observe k).stale = s.stale := rfl
@[simp] theorem State.observe_unseen (s : State) (k : Nat) : (s.observe k).unseen = s.unseen.filter (fun u => u.agent != k) := rfl
@[simp] theorem State.observe_raced (s : State) (k : Nat) : (s.observe k).raced = s.raced := rfl
@[simp] theorem State.observe_draws (s : State) (k : Nat) : (s.observe k).draws = s.draws := rfl

/-! ### State.afterTest -/

@[simp] theorem State.afterTest_ctrl (s : State) (h : HostAgent) : (s.afterTest h).ctrl = s.ctrl := rfl
@[simp] theorem State.afterTest_status (s : State) (h : HostAgent) : (s.afterTest h).status = s.status := rfl
@[simp] theorem State.afterTest_regs (s : State) (h : HostAgent) : (s.afterTest h).regs = s.regs := rfl
@[simp] theorem State.afterTest_crcRes (s : State) (h : HostAgent) : (s.afterTest h).crcRes = s.crcRes := rfl
@[simp] theorem State.afterTest_tblIdx (s : State) (h : HostAgent) : (s.afterTest h).tblIdx = s.tblIdx := rfl
@[simp] theorem State.afterTest_table (s : State) (h : HostAgent) : (s.afterTest h).table = s.table := rfl
@[simp] theorem State.afterTest_inflight (s : State) (h : HostAgent) : (s.afterTest h).inflight = s.inflight := rfl
@[simp] theorem State.afterTest_mem (s : State) (h : HostAgent) : (s.afterTest h).mem = s.mem := rfl
@[simp] theorem State.afterTest_platform (s : State) (h : HostAgent) : (s.afterTest h).platform = s.platform := rfl
@[simp] theorem State.afterTest_agents (s : State) (h : HostAgent) : (s.afterTest h).agents = s.agents := rfl
@[simp] theorem State.afterTest_turns (s : State) (h : HostAgent) : (s.afterTest h).turns = s.turns := rfl
@[simp] theorem State.afterTest_dirty (s : State) (h : HostAgent) : (s.afterTest h).dirty = s.dirty := rfl
@[simp] theorem State.afterTest_contested (s : State) (h : HostAgent) : (s.afterTest h).contested = s.contested := rfl
@[simp] theorem State.afterTest_stale (s : State) (h : HostAgent) : (s.afterTest h).stale = s.stale := rfl
@[simp] theorem State.afterTest_unseen (s : State) (h : HostAgent) : (s.afterTest h).unseen = s.unseen := rfl
@[simp] theorem State.afterTest_raced (s : State) (h : HostAgent) : (s.afterTest h).raced = s.raced := rfl
@[simp] theorem State.afterTest_draws (s : State) (h : HostAgent) : (s.afterTest h).draws = if h.lastStatus.isNone then s.draws + 1 else s.draws := rfl

/-! ### State.statusRead -/

@[simp] theorem State.statusRead_ctrl (s : State) (k : Nat) : (s.statusRead k).ctrl = s.ctrl := by unfold State.statusRead; split <;> rfl
@[simp] theorem State.statusRead_status (s : State) (k : Nat) : (s.statusRead k).status = s.status := by unfold State.statusRead; split <;> rfl
@[simp] theorem State.statusRead_regs (s : State) (k : Nat) : (s.statusRead k).regs = s.regs := by unfold State.statusRead; split <;> rfl
@[simp] theorem State.statusRead_crcRes (s : State) (k : Nat) : (s.statusRead k).crcRes = s.crcRes := by unfold State.statusRead; split <;> rfl
@[simp] theorem State.statusRead_tblIdx (s : State) (k : Nat) : (s.statusRead k).tblIdx = s.tblIdx := by unfold State.statusRead; split <;> rfl
@[simp] theorem State.statusRead_table (s : State) (k : Nat) : (s.statusRead k).table = s.table := by unfold State.statusRead; split <;> rfl
@[simp] theorem State.statusRead_inflight (s : State) (k : Nat) : (s.statusRead k).inflight = s.inflight := by unfold State.statusRead; split <;> rfl
@[simp] theorem State.statusRead_mem (s : State) (k : Nat) : (s.statusRead k).mem = s.mem := by unfold State.statusRead; split <;> rfl
@[simp] theorem State.statusRead_platform (s : State) (k : Nat) : (s.statusRead k).platform = s.platform := by unfold State.statusRead; split <;> rfl
@[simp] theorem State.statusRead_agents (s : State) (k : Nat) : (s.statusRead k).agents = s.agents := by unfold State.statusRead; split <;> rfl
@[simp] theorem State.statusRead_turns (s : State) (k : Nat) : (s.statusRead k).turns = s.turns := by unfold State.statusRead; split <;> rfl
@[simp] theorem State.statusRead_dirty (s : State) (k : Nat) : (s.statusRead k).dirty = s.dirty := by unfold State.statusRead; split <;> rfl
@[simp] theorem State.statusRead_contested (s : State) (k : Nat) : (s.statusRead k).contested = s.contested := by unfold State.statusRead; split <;> rfl
@[simp] theorem State.statusRead_stale (s : State) (k : Nat) : (s.statusRead k).stale = s.stale := by unfold State.statusRead; split <;> rfl
@[simp] theorem State.statusRead_unseen (s : State) (k : Nat) : (s.statusRead k).unseen = if !s.status.busy || s.status.done then s.unseen.filter (fun u => u.agent != k) else s.unseen := by unfold State.statusRead; split <;> rfl
@[simp] theorem State.statusRead_raced (s : State) (k : Nat) : (s.statusRead k).raced = s.raced := by unfold State.statusRead; split <;> rfl
@[simp] theorem State.statusRead_draws (s : State) (k : Nat) : (s.statusRead k).draws = s.draws := by unfold State.statusRead; split <;> rfl

end Sys2Proof.Machine
end

