-- ==== Sys2Proof/Laws/Memory.lean ====
section
/-! SUPPORT. Memory M as a canonical list: read after write, and every operation keeps the canonical form. -/

namespace Sys2Proof.Machine

@[simp] theorem Memory.read_nil (a : Nat) : Memory.read [] a = Memory.unlisted := rfl

/-- A write leaves every other address alone. -/
theorem Memory.read_write_ne (m : Memory) {a x : Nat} (v : Byte) (h : x ≠ a) : (m.write a v).read x = m.read x := by
  induction m with
  | nil => by_cases hv : v = Memory.unlisted <;> simp [Memory.write, Memory.read, hv, Ne.symm h]
  | cons c m ih =>
    obtain ⟨y, b⟩ := c
    unfold Memory.write
    split
    · split
      · rfl
      · simp [Memory.read, Ne.symm h]
    · split
      · next hy =>
        subst hy
        split <;> simp [Memory.read, Ne.symm h]
      · simp only [Memory.read]
        split
        · rfl
        · exact ih

/-- An address below every listed one reads as unlisted. -/
theorem Memory.read_below {m : Memory} {a : Nat} (h : ∀ p ∈ m, a < p.1) : m.read a = Memory.unlisted := by
  induction m with
  | nil => rfl
  | cons c m ih =>
    obtain ⟨y, b⟩ := c
    have h1 : a < y := h (y, b) (by simp)
    simp only [Memory.read]
    rw [if_neg (by omega)]
    exact ih fun p hp => h p (by simp [hp])

/-- The byte written is the byte read. -/
theorem Memory.read_write_self {m : Memory} (hm : m.wf) (a : Nat) (v : Byte) : (m.write a v).read a = v := by
  induction m with
  | nil => by_cases hv : v = Memory.unlisted <;> simp [Memory.write, Memory.read, hv]
  | cons c m ih =>
    obtain ⟨y, b⟩ := c
    obtain ⟨hp, hu⟩ := hm
    rw [List.pairwise_cons] at hp
    have hm' : Memory.wf m := ⟨hp.2, fun p h => hu p (by simp [h])⟩
    unfold Memory.write
    split
    · next hlt =>
      split
      · next hv =>
        rw [hv]
        refine Memory.read_below fun p h => ?_
        rcases List.mem_cons.1 h with rfl | h
        · exact hlt
        · exact Nat.lt_trans hlt (hp.1 p h)
      · simp [Memory.read]
    · split
      · next hy =>
        subst hy
        split
        · next hv =>
          rw [hv]
          exact Memory.read_below fun p h => hp.1 p h
        · simp [Memory.read]
      · next hy =>
        simp only [Memory.read]
        rw [if_neg hy]
        exact ih hm'

/-- Every cell of a written memory is the new one or an old one. -/
theorem Memory.mem_write {m : Memory} {a : Nat} {v : Byte} {p : Host.Cell} (h : p ∈ m.write a v) :
    p ∈ m ∨ (p = (a, v) ∧ v ≠ Memory.unlisted) := by
  induction m with
  | nil =>
    unfold Memory.write at h
    split at h
    · simp at h
    · next hv => exact .inr ⟨by simpa using h, hv⟩
  | cons c m ih =>
    obtain ⟨y, b⟩ := c
    unfold Memory.write at h
    split at h
    · split at h
      · exact .inl h
      · next hv =>
        rcases List.mem_cons.1 h with rfl | h
        · exact .inr ⟨rfl, hv⟩
        · exact .inl h
    · split at h
      · split at h
        · exact .inl (by simp [h])
        · next hv =>
          rcases List.mem_cons.1 h with rfl | h
          · exact .inr ⟨rfl, hv⟩
          · exact .inl (by simp [h])
      · rcases List.mem_cons.1 h with rfl | h
        · exact .inl (by simp)
        · rcases ih h with h | h
          · exact .inl (by simp [h])
          · exact .inr h

/-- A write keeps the canonical form. -/
theorem Memory.write_wf {m : Memory} (hm : m.wf) (a : Nat) (v : Byte) : (m.write a v).wf := by
  refine ⟨?_, fun p h => ?_⟩
  · induction m with
    | nil => unfold Memory.write; split <;> simp
    | cons c m ih =>
      obtain ⟨y, b⟩ := c
      obtain ⟨hp, hu⟩ := hm
      have hp' := List.pairwise_cons.1 hp
      have hm' : Memory.wf m := ⟨hp'.2, fun p h => hu p (by simp [h])⟩
      unfold Memory.write
      split
      · next hlt =>
        split
        · exact hp
        · refine List.pairwise_cons.2 ⟨fun p h => ?_, hp⟩
          rcases List.mem_cons.1 h with rfl | h
          · exact hlt
          · exact Nat.lt_trans hlt (hp'.1 p h)
      · next hge =>
        split
        · next hy =>
          subst hy
          split
          · exact hp'.2
          · exact List.pairwise_cons.2 ⟨fun p h => hp'.1 p h, hp'.2⟩
        · next hy =>
          refine List.pairwise_cons.2 ⟨fun p h => ?_, ih hm'⟩
          rcases Memory.mem_write h with h | ⟨rfl, -⟩
          · exact hp'.1 p h
          · show y < a
            omega
  · rcases Memory.mem_write h with h | ⟨rfl, hv⟩
    · exact hm.2 p h
    · exact hv

/-- A range write leaves every address outside the range alone. -/
theorem Memory.read_writeBytes_of_outside (bs : List Byte) {m : Memory} {a x : Nat} (h : x < a ∨ a + bs.length ≤ x) :
    (m.writeBytes a bs).read x = m.read x := by
  induction bs generalizing m a with
  | nil => rfl
  | cons b bs ih =>
    simp only [List.length_cons] at h
    rw [Memory.writeBytes, ih (by omega), Memory.read_write_ne _ _ (by omega)]

/-- A range write keeps the canonical form. -/
theorem Memory.writeBytes_wf (bs : List Byte) {m : Memory} (hm : m.wf) (a : Nat) : (m.writeBytes a bs).wf := by
  induction bs generalizing m a with
  | nil => exact hm
  | cons b bs ih => exact ih (Memory.write_wf hm a b) _

/-- Byte k of a range write is read at a + k. -/
theorem Memory.read_writeBytes_inside (bs : List Byte) {m : Memory} (hm : m.wf) (a : Nat) {k : Nat} (hk : k < bs.length) :
    (m.writeBytes a bs).read (a + k) = bs[k] := by
  induction bs generalizing m a k with
  | nil => simp at hk
  | cons b bs ih =>
    rw [Memory.writeBytes]
    cases k with
    | zero =>
      show (Memory.writeBytes (m.write a b) (a + 1) bs).read a = b
      rw [Memory.read_writeBytes_of_outside _ (.inl (by omega)), Memory.read_write_self hm]
    | succ k =>
      have := ih (Memory.write_wf hm a b) (a + 1) (k := k) (by simpa using hk)
      rw [show a + (k + 1) = a + 1 + k by omega, this]
      rfl

@[simp] theorem Memory.readBytes_length (m : Memory) (a n : Nat) : (m.readBytes a n).length = n := by
  induction n generalizing a with
  | zero => rfl
  | succ n ih => simp [Memory.readBytes, ih]

/-- Byte k of a range read is M[a+k] (R64). -/
theorem Memory.getElem_readBytes (m : Memory) (a n : Nat) {k : Nat} (hk : k < (m.readBytes a n).length) :
    (m.readBytes a n)[k] = m.read (a + k) := by
  induction n generalizing a k with
  | zero => simp [Memory.readBytes] at hk
  | succ n ih =>
    cases k with
    | zero => rfl
    | succ k =>
      have := ih (a + 1) (k := k) (by simpa using hk)
      simpa [Memory.readBytes, show a + (k + 1) = a + 1 + k by omega] using this

/-- Reading the range just written gives the bytes written. -/
theorem Memory.readBytes_writeBytes_self {m : Memory} (hm : m.wf) (a : Nat) (bs : List Byte) :
    (m.writeBytes a bs).readBytes a bs.length = bs := by
  refine List.ext_getElem (by simp) fun k h1 h2 => ?_
  rw [Memory.getElem_readBytes, Memory.read_writeBytes_inside bs hm a h2]

/-- A range read depends only on the bytes of the range. -/
theorem Memory.readBytes_congr {m m' : Memory} {a n : Nat} (h : ∀ x, a ≤ x → x < a + n → m.read x = m'.read x) :
    m.readBytes a n = m'.readBytes a n := by
  refine List.ext_getElem (by simp) fun k h1 h2 => ?_
  rw [Memory.getElem_readBytes, Memory.getElem_readBytes]
  simp only [Memory.readBytes_length] at h1
  exact h _ (by omega) (by omega)

theorem Memory.readBytes_append (m : Memory) (a n k : Nat) :
    m.readBytes a (n + k) = m.readBytes a n ++ m.readBytes (a + n) k := by
  refine List.ext_getElem (by simp) fun i h1 h2 => ?_
  rw [Memory.getElem_readBytes]
  by_cases h : i < n
  · rw [List.getElem_append_left (by simpa using h), Memory.getElem_readBytes]
  · rw [List.getElem_append_right (by simpa using Nat.le_of_not_lt h), Memory.getElem_readBytes]
    simp only [Memory.readBytes_length]
    congr 1
    omega

/-- A range read without its first k bytes. -/
theorem Memory.readBytes_drop (m : Memory) (a : Nat) {n k : Nat} (h : k ≤ n) :
    (m.readBytes a n).drop k = m.readBytes (a + k) (n - k) := by
  obtain ⟨j, rfl⟩ := Nat.exists_eq_add_of_le h
  rw [Memory.readBytes_append, List.drop_left' (by simp), Nat.add_sub_cancel_left]

/-- The first k bytes of a range read. -/
theorem Memory.readBytes_take (m : Memory) (a : Nat) {n k : Nat} (h : k ≤ n) :
    (m.readBytes a n).take k = m.readBytes a k := by
  obtain ⟨j, rfl⟩ := Nat.exists_eq_add_of_le h
  rw [Memory.readBytes_append, List.take_left' (by simp)]

theorem getElem_freeBytes (d a n : Nat) {k : Nat} (hk : k < (freeBytes d a n).length) :
    (freeBytes d a n)[k] = Config.freeByte d (a + k) := by
  induction n generalizing a k with
  | zero => simp [freeBytes] at hk
  | succ n ih =>
    cases k with
    | zero => rfl
    | succ k =>
      have := ih (a + 1) (k := k) (by simpa using hk)
      simpa [freeBytes, show a + (k + 1) = a + 1 + k by omega] using this

end Sys2Proof.Machine
end

