-- ==== Sys2Proof/Laws/Ops.lean ====
section
/-! SUPPORT. The shared operations: what the Engine reads and leaves, and everything a memory access of a command can do. -/

namespace Sys2Proof.Machine

/-! ## Address ranges -/

theorem Platform.allAnswer_iff (p : Platform) (a n : Nat) :
    p.allAnswer a n = true ↔ ∀ k, k < n → p.answers (a + k) = true := by
  induction n generalizing a with
  | zero => simp [Platform.allAnswer]
  | succ n ih =>
    simp only [Platform.allAnswer, Bool.and_eq_true, ih]
    constructor
    · rintro ⟨h0, h⟩ k hk
      cases k with
      | zero => exact h0
      | succ k => simpa [show a + (k + 1) = a + 1 + k by omega] using h k (by omega)
    · intro h
      exact ⟨h 0 (by omega), fun k hk => by simpa [show a + (k + 1) = a + 1 + k by omega] using h (k + 1) (by omega)⟩

theorem Platform.anyDevice_eq_false_iff (p : Platform) (a n : Nat) :
    p.anyDevice a n = false ↔ ∀ k, k < n → p.isDevice (a + k) = false := by
  induction n generalizing a with
  | zero => simp [Platform.anyDevice]
  | succ n ih =>
    simp only [Platform.anyDevice, Bool.or_eq_false_iff, ih]
    constructor
    · rintro ⟨h0, h⟩ k hk
      cases k with
      | zero => exact h0
      | succ k => simpa [show a + (k + 1) = a + 1 + k by omega] using h k (by omega)
    · intro h
      exact ⟨h 0 (by omega), fun k hk => by simpa [show a + (k + 1) = a + 1 + k by omega] using h (k + 1) (by omega)⟩

/-- A device in a range is a device of the platform. -/
theorem Platform.anyDevice_of_no_devices {p : Platform} (h : p.devices = []) (a n : Nat) : p.anyDevice a n = false := by
  rw [Platform.anyDevice_eq_false_iff]
  intro k _
  simp [Platform.isDevice, h]

/-- A part of a usable range is usable. -/
theorem State.Usable.part {s : State} {a n : Nat} (h : s.Usable a n) {b k : Nat} (h1 : a ≤ b) (h2 : b + k ≤ a + n) :
    s.Usable b k := by
  obtain ⟨ha, hd⟩ := h
  rw [Platform.allAnswer_iff] at ha
  rw [Platform.anyDevice_eq_false_iff] at hd
  constructor
  · rw [Platform.allAnswer_iff]
    intro j hj
    have := ha (b - a + j) (by omega)
    rwa [show a + (b - a + j) = b + j by omega] at this
  · rw [Platform.anyDevice_eq_false_iff]
    intro j hj
    have := hd (b - a + j) (by omega)
    rwa [show a + (b - a + j) = b + j by omega] at this

/-- Usability depends on the platform alone. -/
theorem State.Usable.of_platform {s t : State} {a n : Nat} (h : s.Usable a n) (hp : t.platform = s.platform) : t.Usable a n := by
  unfold State.Usable at *
  rw [hp]
  exact h

/-- A byte of a range outside `P_MEM` keeps the range from answering (R64). -/
theorem Platform.allAnswer_eq_false {p : Platform} {a n : Nat} (h : ∃ j, j < n ∧ p.answers (a + j) = false) :
    p.allAnswer a n = false := by
  obtain ⟨j, hj, hf⟩ := h
  rw [← Bool.not_eq_true, Platform.allAnswer_iff]
  intro hh
  rw [hh j hj] at hf
  cases hf

/-! ## What the Engine reads -/

@[simp] theorem State.engineBytes_length (s : State) (a n : Nat) : (s.engineBytes a n).length = n := by
  induction n generalizing a with
  | zero => rfl
  | succ n ih => simp [State.engineBytes, ih]

/-- Byte k of an Engine read is the byte it sees at a + k (R64). -/
theorem State.getElem_engineBytes (s : State) (a n : Nat) {k : Nat} (hk : k < (s.engineBytes a n).length) :
    (s.engineBytes a n)[k] = s.engineByte (a + k) := by
  induction n generalizing a k with
  | zero => simp [State.engineBytes] at hk
  | succ n ih =>
    cases k with
    | zero => rfl
    | succ k =>
      have := ih (a + 1) (k := k) (by simpa using hk)
      simpa [State.engineBytes, show a + (k + 1) = a + 1 + k by omega] using this

/-- With no race and every store visible, the Engine reads M (R64, R73). -/
theorem State.engineByte_of_quiet {s : State} (h : s.Quiet) (a : Nat) : s.engineByte a = s.mem.read a := by
  simp [State.engineByte, cellsAt, h.1, h.2]

theorem State.engineBytes_of_quiet {s : State} (h : s.Quiet) (a n : Nat) : s.engineBytes a n = s.mem.readBytes a n := by
  induction n generalizing a with
  | zero => rfl
  | succ n ih => rw [State.engineBytes, Memory.readBytes, ih, State.engineByte_of_quiet h]

/-- An Engine read depends only on the races, the stores not visible, the draw number and the bytes of the range. -/
theorem State.engineBytes_congr {s t : State} {a n : Nat} (hr : s.raced = t.raced) (hd : s.dirty = t.dirty)
    (hc : s.contested = t.contested) (hn : s.draws = t.draws) (h : ∀ x, a ≤ x → x < a + n → s.mem.read x = t.mem.read x) :
    s.engineBytes a n = t.engineBytes a n := by
  refine List.ext_getElem (by simp) fun k h1 h2 => ?_
  rw [State.getElem_engineBytes, State.getElem_engineBytes]
  simp only [State.engineBytes_length] at h1
  simp only [State.engineByte, hr, hd, hc, hn, h (a + k) (by omega) (by omega)]

/-- A part of what the Engine reads is what it reads of the part. -/
theorem State.engineBytes_append (s : State) (a n k : Nat) :
    s.engineBytes a (n + k) = s.engineBytes a n ++ s.engineBytes (a + n) k := by
  refine List.ext_getElem (by simp) fun i h1 h2 => ?_
  rw [State.getElem_engineBytes]
  by_cases h : i < n
  · rw [List.getElem_append_left (by simpa using h), State.getElem_engineBytes]
  · rw [List.getElem_append_right (by simpa using Nat.le_of_not_lt h), State.getElem_engineBytes]
    simp only [State.engineBytes_length]
    congr 1
    omega

theorem byteAt_engineBytes (s : State) (a n : Nat) {k : Nat} (hk : k < n) :
    byteAt (s.engineBytes a n) k = s.engineByte (a + k) := by
  unfold byteAt
  rw [List.getD_eq_getElem _ _ (by simpa using hk), State.getElem_engineBytes]

/-- Four bytes of an Engine read, decoded (R60). -/
theorem be32At_engineBytes (s : State) (a n : Nat) {k : Nat} (h : k + 4 ≤ n) :
    be32At (s.engineBytes a n) k =
      be32 (s.engineByte (a + k)) (s.engineByte (a + (k + 1))) (s.engineByte (a + (k + 2)))
        (s.engineByte (a + (k + 3))) := by
  unfold be32At
  rw [byteAt_engineBytes _ _ _ (by omega), byteAt_engineBytes _ _ _ (by omega), byteAt_engineBytes _ _ _ (by omega),
    byteAt_engineBytes _ _ _ (by omega)]

/-! ## What the Engine leaves -/

/-- Byte k of an Engine write is the byte given, unless it is unsettled (R75). -/
theorem State.getElem_landed (s : State) (a : Nat) (bs : List Byte) {k : Nat} (hk : k < (s.landed a bs).length) :
    (s.landed a bs)[k] =
      if s.unsettled (a + k) then Config.freeByte s.draws (a + k) else bs[k]'(by simpa using hk) := by
  induction bs generalizing a k with
  | nil => simp [State.landed] at hk
  | cons b bs ih =>
    cases k with
    | zero => rfl
    | succ k =>
      have := ih (a + 1) (k := k) (by simpa using hk)
      simpa [State.landed, show a + (k + 1) = a + 1 + k by omega] using this

/-- With no race and every store visible, the bytes given are the bytes left (R65). -/
theorem State.landed_of_quiet {s : State} (h : s.Quiet) (a : Nat) (bs : List Byte) : s.landed a bs = bs := by
  induction bs generalizing a with
  | nil => rfl
  | cons b bs ih => simp [State.landed, State.unsettled, cellsAt, h.1, h.2, ih]

/-- An Engine write leaves every byte outside its range alone (R65). -/
theorem State.read_engineStore_of_outside (s : State) (a : Nat) (bs : List Byte) {x : Nat} (h : x < a ∨ a + bs.length ≤ x) :
    (s.engineStore a bs).mem.read x = s.mem.read x :=
  Memory.read_writeBytes_of_outside _ (by simpa using h)

/-- Byte k of an Engine write, where nothing interferes, is the byte given (R65). -/
theorem State.read_engineStore_inside {s : State} (hm : s.mem.wf) (a : Nat) (bs : List Byte) {k : Nat} (hk : k < bs.length) :
    (s.engineStore a bs).mem.read (a + k) =
      if s.unsettled (a + k) then Config.freeByte s.draws (a + k) else bs[k] := by
  rw [State.engineStore_mem, Memory.read_writeBytes_inside _ hm a (by simpa using hk), State.getElem_landed]

/-- Scrambling a range leaves every byte outside it alone (R222). -/
theorem State.read_scramble_of_outside (s : State) (a n : Nat) {x : Nat} (h : x < a ∨ a + n ≤ x) :
    (s.scramble a n).mem.read x = s.mem.read x :=
  Memory.read_writeBytes_of_outside _ (by simpa using h)

/-- Every byte of a scrambled range is a free byte (R65, R193, R222). -/
theorem State.read_scramble_inside {s : State} (hm : s.mem.wf) (a n : Nat) {x : Nat} (h1 : a ≤ x) (h2 : x < a + n) :
    (s.scramble a n).mem.read x = Config.freeByte s.draws x := by
  obtain ⟨k, rfl⟩ := Nat.exists_eq_add_of_le h1
  show (Memory.writeBytes s.mem a (freeBytes s.draws a n)).read (a + k) = _
  rw [Memory.read_writeBytes_inside _ hm a (by simp; omega), getElem_freeBytes]

/-- The result bits of a fail-closed completion, as one record (R193). -/
theorem Status.failClosed_eq (i : Instr) (t : Status) :
    t.failClosed i = { t with
      sigok := if i = .sigchk then false else t.sigok
      stop := if i = .parse then true else t.stop
      crcerr := if i = .parse then false else t.crcerr } := by
  cases i <;> simp [Status.failClosed]

/-! ## Memory accesses of a command -/

/-- A read of usable memory goes on with the bytes the Engine sees. -/
theorem State.withRead_usable {s : State} {a n : Nat} (h : s.Usable a n) (i : Instr) (u : State)
    (k : List Byte → Host.Outcome State Fault Refusal) : s.withRead i u a n k = k (s.engineBytes a n) := by
  simp [State.withRead, h.1, h.2]

/-- A read that meets an address outside `P_MEM`, and no device, raises BUS. -/
theorem State.withRead_bus {s : State} {a n : Nat} (hd : s.platform.anyDevice a n = false)
    (ha : s.platform.allAnswer a n = false) (i : Instr) (u : State)
    (k : List Byte → Host.Outcome State Fault Refusal) : s.withRead i u a n k = .next (u.raise i .bus) := by
  simp [State.withRead, hd, ha]

/-- Everything a read of a command can do. -/
theorem State.withRead_cases (s : State) (i : Instr) (u : State) (a n : Nat)
    (k : List Byte → Host.Outcome State Fault Refusal) :
    (s.platform.anyDevice a n = true ∧ s.withRead i u a n k = .refused .deviceFootprint) ∨
    (s.Usable a n ∧ s.withRead i u a n k = k (s.engineBytes a n)) ∨
    (s.platform.anyDevice a n = false ∧ s.platform.allAnswer a n = false ∧
      s.withRead i u a n k = .next (u.raise i .bus)) := by
  by_cases hd : s.platform.anyDevice a n = true
  · exact .inl ⟨hd, by simp [State.withRead, hd]⟩
  · simp only [Bool.not_eq_true] at hd
    by_cases ha : s.platform.allAnswer a n = true
    · exact .inr (.inl ⟨⟨ha, hd⟩, by simp [State.withRead, ha, hd]⟩)
    · simp only [Bool.not_eq_true] at ha
      exact .inr (.inr ⟨hd, ha, by simp [State.withRead, ha, hd]⟩)

/-- A write of usable memory goes on with the state after the store. -/
theorem State.withWrite_usable {s : State} {a : Nat} {bs : List Byte} (h : s.Usable a bs.length) (i : Instr)
    (k : State → Host.Outcome State Fault Refusal) : s.withWrite i a bs k = k (s.engineStore a bs) := by
  simp [State.withWrite, h.1, h.2]

/-- Everything a write of a command can do. -/
theorem State.withWrite_cases (s : State) (i : Instr) (a : Nat) (bs : List Byte)
    (k : State → Host.Outcome State Fault Refusal) :
    (s.platform.anyDevice a bs.length = true ∧ s.withWrite i a bs k = .refused .deviceFootprint) ∨
    (s.Usable a bs.length ∧ s.withWrite i a bs k = k (s.engineStore a bs)) ∨
    (s.platform.anyDevice a bs.length = false ∧ s.platform.allAnswer a bs.length = false ∧
      s.withWrite i a bs k = .next ((s.scramble a bs.length).raise i .bus)) := by
  by_cases hd : s.platform.anyDevice a bs.length = true
  · exact .inl ⟨hd, by simp [State.withWrite, hd]⟩
  · simp only [Bool.not_eq_true] at hd
    by_cases ha : s.platform.allAnswer a bs.length = true
    · exact .inr (.inl ⟨⟨ha, hd⟩, by simp [State.withWrite, ha, hd]⟩)
    · simp only [Bool.not_eq_true] at ha
      exact .inr (.inr ⟨hd, ha, by simp [State.withWrite, ha, hd]⟩)

/-! ## The reset input -/

/-- On its turn the reset input takes its step. -/
theorem step_of_reset {s : State} {ts : List Turn} (h : s.turns = .reset :: ts) :
    step s = State.resetStep { s with turns := ts } := by
  simp [step, h, State.runTurn]

/-- A reset takes place unless a command in flight has a device in its footprint (R220, R68). -/
theorem State.resetStep_next {s : State} (h : ∀ r, s.inflight = some r → s.onDevice (decode r.word) r = false) :
    s.resetStep = .next s.resetInput := by
  unfold State.resetStep
  split
  · next r hr => simp [h r hr]
  · rfl

/-- A reset during a command whose footprint holds a device has no meaning (R68). -/
theorem State.resetStep_refused {s : State} {r : CmdRecord} (hr : s.inflight = some r)
    (h : s.onDevice (decode r.word) r = true) : s.resetStep = .refused .deviceFootprint := by
  unfold State.resetStep
  split
  · next q hq =>
    obtain rfl : q = r := Option.some.inj (hq.symm.trans hr)
    simp [h]
  · next hq => simp [hq] at hr

/-! ## The Hosts' side -/

/-- A list that holds no byte for an address leaves no other choice than the first. -/
@[simp] theorem pickByte_nil (n : Nat) (old : Byte) : pickByte n old [] = old := by simp [pickByte, Nat.mod_one]

/-- A choice gives the first byte or one of the others (R73). -/
theorem pickByte_cases (n : Nat) (old : Byte) (others : List Byte) :
    pickByte n old others = old ∨ pickByte n old others ∈ others := by
  unfold pickByte
  have h : n % (others.length + 1) < (old :: others).length := by simpa using Nat.mod_lt n (Nat.succ_pos _)
  rw [List.getD_eq_getElem _ _ h]
  exact (List.mem_cons.1 (List.getElem_mem h))

/-- Where no store is waiting and the agent has observed every completion, its load outside the write set returns M[a] (R74). -/
theorem State.hostByte_of_seen {s : State} {k a : Nat} (hd : cellsAt s.dirty a = []) (hs : cellsAt s.stale a = [])
    (hu : s.unseenBy k a = []) (hw : s.inWriteSet a = false) : s.hostByte k a = s.mem.read a := by
  simp [State.hostByte, hw, hd, hs, hu]

end Sys2Proof.Machine
end

