-- ==== Sys2Proof/Laws/Agents.lean ====
section
/-! SUPPORT. The agents' memory operations: the caches' lists, what a write-back leaves, and everything an agent's access or
port transaction can do. -/

namespace Sys2Proof.Machine

/-! ## Lists of cells -/

/-- A list without cells at an address holds no byte for it. -/
theorem cellsAt_eq_nil {cs : List Host.Cell} {a : Nat} (h : ∀ c ∈ cs, c.1 ≠ a) : cellsAt cs a = [] := by
  simp only [cellsAt, List.map_eq_nil_iff, List.filter_eq_nil_iff]
  intro c hc
  simpa using h c hc

/-- Dropping the cells of a range leaves none at an address in it. -/
theorem cellsAt_filter_outside {cs : List Host.Cell} {a b n : Nat} (h : inRange b n a = true) :
    cellsAt (cs.filter (fun c => !inRange b n c.1)) a = [] := by
  refine cellsAt_eq_nil fun c hc => ?_
  rintro rfl
  simp [h] at hc

/-- The store just made is the newest one found. -/
theorem cellsAt_putCell_self (cs : List Host.Cell) (a : Nat) (v : Byte) :
    cellsAt (putCell cs a v) a = v :: (cellsAt cs a).filter (fun w => w != v) := by
  have h : (cs.filter (fun c => c != (a, v))).filter (fun c => c.1 == a) =
      (cs.filter (fun c => c.1 == a)).filter ((fun w => w != v) ∘ fun c => c.2) := by
    rw [List.filter_filter, List.filter_filter]
    refine List.filter_congr fun c _ => ?_
    obtain ⟨x, w⟩ := c
    rw [Bool.eq_iff_iff]
    by_cases hx : x = a <;> simp [hx]
  simp [cellsAt, putCell, h, List.filter_map]

/-- An address holds a cell's byte exactly when it is listed with it. -/
theorem mem_cellsAt {cs : List Host.Cell} {a : Nat} {v : Byte} : v ∈ cellsAt cs a ↔ (a, v) ∈ cs := by
  simp only [cellsAt, List.mem_map, List.mem_filter, beq_iff_eq]
  constructor
  · rintro ⟨c, ⟨hc, rfl⟩, rfl⟩
    exact hc
  · exact fun h => ⟨(a, v), ⟨h, rfl⟩, rfl⟩

/-- The address just stored to is not contested any more; the others are as before. -/
theorem State.mem_hostStore_contested {s : State} {a x : Nat} {v : Byte} :
    x ∈ (s.hostStore a v).contested ↔ x ∈ s.contested ∧ x ≠ a := by simp

theorem inRange_iff (a n x : Nat) : inRange a n x = true ↔ a ≤ x ∧ x < a + n := by simp [inRange]

/-- The addresses of the write set of the command in flight (R69). -/
theorem State.inWriteSet_iff {s : State} {r : CmdRecord} (h : s.inflight = some r) (x : Nat) :
    s.inWriteSet x = true ↔ (writeSet r).1 ≤ x ∧ x < (writeSet r).1 + (writeSet r).2 := by
  simp [State.inWriteSet, h, inRange]

/-- With no command in flight there is no race (R75). -/
theorem State.raceList_of_idle {s : State} (h : s.inflight = none) (a : Nat) : s.raceList a = s.raced := by
  simp [State.raceList, h]

@[simp] theorem State.afterLoad_raced (s : State) (a : Nat) :
    (s.afterLoad a).raced = if s.inWriteSet a then s.raceList a else s.raced := rfl

/-! ## Write-backs -/

/-- Everything the write-back of several bytes can do. -/
theorem foldl_writeBack (cs : List Host.Cell) {s : State} (h : s.mem.wf) :
    (cs.foldl State.writeBack s).mem.wf ∧
    (∀ a, (∀ c ∈ cs, c.1 ≠ a) → (cs.foldl State.writeBack s).mem.read a = s.mem.read a) ∧
    (s.inflight = none → (cs.foldl State.writeBack s).raced = s.raced) ∧
    cs.foldl State.writeBack s =
      { s with mem := (cs.foldl State.writeBack s).mem, raced := (cs.foldl State.writeBack s).raced } := by
  induction cs generalizing s with
  | nil => exact ⟨h, fun _ _ => rfl, fun _ => rfl, rfl⟩
  | cons c cs ih =>
    obtain ⟨h1, h2, h3, h4⟩ := ih (s := s.writeBack c) (Memory.write_wf h _ _)
    refine ⟨h1, fun a ha => ?_, fun hf => ?_, h4⟩
    · rw [List.foldl_cons, h2 a fun d hd => ha d (by simp [hd]), State.writeBack_mem,
        Memory.read_write_ne _ _ (Ne.symm (ha c (by simp)))]
    · rw [List.foldl_cons, h3 (by simpa using hf), State.writeBack_raced, State.raceList_of_idle hf]

/-- What the write-back of some addresses leaves in M. -/
theorem read_foldl_writeBack (xs : List Nat) (f : Nat → Byte) {s : State} (h : s.mem.wf) (a : Nat) :
    ((xs.map (fun x => (x, f x))).foldl State.writeBack s).mem.read a = if a ∈ xs then f a else s.mem.read a := by
  induction xs generalizing s with
  | nil => simp
  | cons x xs ih =>
    rw [List.map_cons, List.foldl_cons, ih (s := s.writeBack (x, f x)) (Memory.write_wf h _ _), State.writeBack_mem]
    by_cases hx : a ∈ xs
    · simp [hx]
    · by_cases ha : a = x
      · subst ha
        simp [hx, Memory.read_write_self h]
      · simp [hx, ha, Memory.read_write_ne _ _ ha]

/-- The addresses at which a settling acts. -/
theorem State.mem_dirtyIn {s : State} {a n x : Nat} :
    x ∈ s.dirtyIn a n ↔ inRange a n x = true ∧ cellsAt s.dirty x ≠ [] := by
  simp only [State.dirtyIn, List.mem_map, List.mem_filter]
  constructor
  · rintro ⟨c, ⟨hc, hr⟩, rfl⟩
    exact ⟨hr, List.ne_nil_of_mem (mem_cellsAt.2 hc)⟩
  · rintro ⟨hr, hx⟩
    obtain ⟨v, hv⟩ := List.exists_mem_of_ne_nil _ hx
    exact ⟨(x, v), ⟨mem_cellsAt.1 hv, hr⟩, rfl⟩

/-- Settling changes M, the races, what the caches hold and the draw number, and nothing else. -/
theorem State.settle_eq {s : State} (h : s.mem.wf) (a n : Nat) (f : Nat → Byte) :
    s.settle a n f =
      { s with
        mem := (s.settle a n f).mem
        raced := (s.settle a n f).raced
        dirty := s.dirty.filter (fun c => !inRange a n c.1)
        contested := s.contested.filter (fun x => !inRange a n x)
        draws := s.draws + 1 } := by
  have e := (foldl_writeBack ((s.dirtyIn a n).map (fun x => (x, f x))) h).2.2.2
  unfold State.settle
  rw [e]

/-- What a settling leaves in M: `f` where a store was waiting in the range, the byte as it was elsewhere. -/
theorem State.read_settle {s : State} (h : s.mem.wf) (a n : Nat) (f : Nat → Byte) (x : Nat) :
    (s.settle a n f).mem.read x =
      if inRange a n x = true ∧ cellsAt s.dirty x ≠ [] then f x else s.mem.read x := by
  show (((s.dirtyIn a n).map (fun y => (y, f y))).foldl State.writeBack s).mem.read x = _
  rw [read_foldl_writeBack _ _ h]
  simp only [State.mem_dirtyIn]

/-- Settling keeps the canonical form, and with no command in flight races with nothing. -/
theorem State.settle_facts {s : State} (h : s.mem.wf) (a n : Nat) (f : Nat → Byte) :
    (s.settle a n f).mem.wf ∧ (s.inflight = none → (s.settle a n f).raced = s.raced) :=
  have e := foldl_writeBack ((s.dirtyIn a n).map (fun x => (x, f x))) h
  ⟨e.1, e.2.2.1⟩

/-- An invalidation is a settling and a change to the old copies (R79). -/
theorem State.hostInvalidate_eq (s : State) (k a n : Nat) :
    s.hostInvalidate k a n =
      { s.settle a n s.dropByte with
        stale := s.stale.filter (fun c => !(inRange a n c.1 && (s.unseenBy k c.1).isEmpty)) } := rfl

/-- What agent k has not seen depends on the list of unseen writes alone. -/
theorem State.unseenBy_observe (s : State) (k a : Nat) : (s.observe k).unseenBy k a = [] := by
  simp only [State.unseenBy, State.observe_unseen, List.map_eq_nil_iff, List.filter_eq_nil_iff, List.mem_filter]
  rintro u ⟨-, hu⟩
  simp_all

/-! ## What an agent's line can do -/

/-- Everything an agent's own access to memory can do (R63). -/
theorem State.hostAccess_cases (s : State) (a : Nat) (t : State) :
    (s.platform.isDevice a = true ∧ s.hostAccess a t = .refused .hostDeviceAccess) ∨
    (s.platform.isDevice a = false ∧ s.platform.answers a = true ∧ s.hostAccess a t = .next t) ∨
    (s.platform.isDevice a = false ∧ s.platform.answers a = false ∧ s.hostAccess a t = .fault .hostBusError) := by
  cases hd : s.platform.isDevice a <;> cases ha : s.platform.answers a <;> simp [State.hostAccess, hd, ha]

/-- Everything a jump can do (R93). -/
theorem State.jump_cases (s : State) (k : Nat) (h : HostAgent) (l : Nat) :
    (∃ p, findLabel h.prog l = some p ∧ s.jump k h l = .next (s.updAgent k (fun g => { g with pc := p }))) ∨
    (findLabel h.prog l = none ∧ s.jump k h l = .refused .undefinedLabel) := by
  cases e : findLabel h.prog l with
  | some p => exact .inl ⟨p, rfl, by simp [State.jump, e]⟩
  | none => exact .inr ⟨rfl, by simp [State.jump, e]⟩

/-- Once the agent has read STATUS, `bif` tests that value and nothing is drawn (R93). -/
theorem State.test_of_some {h : HostAgent} {w : Word} (e : h.lastStatus = some w) (s : State) :
    s.testedStatus h = w ∧ s.afterTest h = s := by
  simp [State.testedStatus, State.afterTest, e]

/-- The offset of a register is found at its place (R22). -/
theorem Reg.atOffset_offset (r : Reg) : Reg.atOffset r.offset = some r := by cases r <;> decide

/-- The platform address of a register reaches it (R93). -/
theorem portOffset_reg (base : Word) (r : Reg) : portOffset base (base.toNat + r.offset) .word = .ok r.offset := by
  have : r.offset < 0x100 ∧ r.offset % 4 = 0 := by cases r <;> decide
  unfold portOffset
  rw [if_neg (by omega), if_neg (by omega)]
  simp [this.2]

end Sys2Proof.Machine
end

