-- ==== Sys2Proof/Laws/Crc.lean ====
section
/-! SUPPORT. The finished table, entry by entry (10_state.md R45, 40_crc_engine.md R101), and what the builder's step does. -/

namespace Sys2Proof.Machine

@[simp] theorem fullTable_length : fullTable.length = 256 := by simp [fullTable]

/-- Every entry of the finished table is that of R101. -/
theorem tableAt_fullTable {i : Nat} (h : i < 256) : tableAt fullTable i = tableEntry i := by
  unfold tableAt
  rw [List.getD_eq_getElem _ _ (by simpa [fullTable] using h)]
  simp [fullTable]

/-- A CRC step over the finished table (R103). -/
theorem crcStep_fullTable (acc : Word) (b : Byte) :
    crcStep fullTable acc b = (acc >>> 8) ^^^ tableEntry ((acc ^^^ b.setWidth 32) &&& 0xFF#32).toNat := by
  unfold crcStep
  rw [tableAt_fullTable]
  have h : ((acc ^^^ b.setWidth 32) &&& 0xFF#32).toNat = (acc ^^^ b.setWidth 32).toNat &&& 255 := by simp
  rw [h]
  have := Nat.and_le_right (n := (acc ^^^ b.setWidth 32).toNat) (m := 255)
  omega

/-- A step of the builder before the last entry only adds the next entry (R221). -/
theorem State.builderStep_of_lt {s : State} (h : s.table.length + 1 < 256) :
    s.builderStep = { s with table := s.table ++ [tableEntry s.table.length] } := by
  simp [State.builderStep, h, show s.table.length < 256 by omega]

/-- The step that writes entry 255 completes the build (R221, R30). -/
theorem State.builderStep_last {s : State} (h : s.table.length = 255) :
    s.builderStep = { s with table := s.table ++ [tableEntry 255], status := s.status.built } := by
  simp [State.builderStep, h]

end Sys2Proof.Machine
end

