-- ==== Sys2Proof/Laws/Decode.lean ====
section
/-! SUPPORT. Decoding a word, case by case: the ten legal words and the reserved ones (30_encoding.md R83, R92). -/

namespace Sys2Proof

/-- A word is its fields (R80). -/
theorem fields_ext {w v : Word} (h1 : cmdOp w = cmdOp v) (h2 : cmdInit w = cmdInit v) (h3 : cmdFinal w = cmdFinal v)
    (h4 : cmdRsv w = cmdRsv v) : w = v := by
  apply BitVec.eq_of_getLsbD_eq
  intro i hi
  rcases Nat.lt_or_ge i 8 with h | h
  · have := congrArg (fun x => x.getLsbD i) h1
    simpa [cmdOp, h, BitVec.getLsbD_extractLsb'] using this
  rcases Nat.lt_or_ge i 9 with h' | h'
  · have : i = 8 := by omega
    subst this; exact h2
  rcases Nat.lt_or_ge i 10 with h' | h'
  · have : i = 9 := by omega
    subst this; exact h3
  · have := congrArg (fun x => x.getLsbD (i - 10)) h4
    simpa [cmdRsv, BitVec.getLsbD_extractLsb', show i - 10 < 22 by omega, show 10 + (i - 10) = i by omega] using this

/-- What any word decodes to (R92). -/
theorem decode_cases (w : Word) :
    (w = 0x00000000#32 ∧ decode w = .nop) ∨ (w = 0x00000001#32 ∧ decode w = .crc) ∨ (w = 0x00000101#32 ∧ decode w = .crcI) ∨
    (w = 0x00000201#32 ∧ decode w = .crcF) ∨ (w = 0x00000301#32 ∧ decode w = .crcIF) ∨ (w = 0x00000002#32 ∧ decode w = .sigchk) ∨
    (w = 0x00000003#32 ∧ decode w = .parse) ∨ (w = 0x00000004#32 ∧ decode w = .emitsig) ∨ (w = 0x00000005#32 ∧ decode w = .emit) ∨
    (w = 0x00000006#32 ∧ decode w = .mkchunk) ∨ (reservedWord w = true ∧ decode w = .badcmd w) := by
  by_cases h0 : cmdRsv w = 0#22
  swap
  · have hd : decode w = .badcmd w := if_pos h0
    have hr : reservedWord w = true := by simp [reservedWord, h0]
    simp [hd, hr]
  by_cases h1 : cmdOp w = 1#8
  · cases hi : cmdInit w <;> cases hf : cmdFinal w
    · exact .inr (.inl ⟨fields_ext (by rw [h1]; decide) (by rw [hi]; decide) (by rw [hf]; decide) (by rw [h0]; decide), by simp [decode, h0, h1, hi, hf]⟩)
    · exact .inr (.inr (.inr (.inl ⟨fields_ext (by rw [h1]; decide) (by rw [hi]; decide) (by rw [hf]; decide) (by rw [h0]; decide), by simp [decode, h0, h1, hi, hf]⟩)))
    · exact .inr (.inr (.inl ⟨fields_ext (by rw [h1]; decide) (by rw [hi]; decide) (by rw [hf]; decide) (by rw [h0]; decide), by simp [decode, h0, h1, hi, hf]⟩))
    · exact .inr (.inr (.inr (.inr (.inl ⟨fields_ext (by rw [h1]; decide) (by rw [hi]; decide) (by rw [hf]; decide) (by rw [h0]; decide), by simp [decode, h0, h1, hi, hf]⟩))))
  by_cases hif : (cmdInit w || cmdFinal w) = true
  · have : decode w = .badcmd w := by
      unfold decode
      rw [if_neg (not_not.2 h0), if_neg h1, if_pos hif]
    have hr : reservedWord w = true := by simp only [reservedWord, hif, Bool.and_true, h0]; simp [h1]
    simp [this, hr]
  · simp only [Bool.not_eq_true, Bool.or_eq_false_iff] at hif
    have hd : decode w = (match (cmdOp w).toNat with
      | 0 => .nop | 2 => .sigchk | 3 => .parse | 4 => .emitsig | 5 => .emit | 6 => .mkchunk | _ => .badcmd w) := by
      unfold decode
      exact (if_neg (not_not.2 h0)).trans ((if_neg h1).trans (if_neg (by simp [hif.1, hif.2])))
    by_cases h7 : 7 ≤ (cmdOp w).toNat
    · right; right; right; right; right; right; right; right; right; right
      refine ⟨by simp [reservedWord, h7], ?_⟩
      rw [hd]; split <;> first | omega | rfl
    · have key : (cmdOp w).toNat = 0 ∨ (cmdOp w).toNat = 2 ∨ (cmdOp w).toNat = 3 ∨ (cmdOp w).toNat = 4 ∨ (cmdOp w).toNat = 5 ∨ (cmdOp w).toNat = 6 := by
        have : (cmdOp w).toNat ≠ 1 := fun h => h1 (BitVec.eq_of_toNat_eq h)
        omega
      have fe : ∀ v : Word, (cmdOp w).toNat = (cmdOp v).toNat → cmdInit v = false → cmdFinal v = false → cmdRsv v = 0#22 → w = v :=
        fun v a b c d => fields_ext (BitVec.eq_of_toNat_eq a) (by rw [hif.1, b]) (by rw [hif.2, c]) (by rw [h0, d])
      rcases key with k | k | k | k | k | k <;> rw [hd, k]
      · simp [fe 0x00000000#32 (by rw [k]; decide) (by decide) (by decide) (by decide)]
      · simp [fe 0x00000002#32 (by rw [k]; decide) (by decide) (by decide) (by decide)]
      · simp [fe 0x00000003#32 (by rw [k]; decide) (by decide) (by decide) (by decide)]
      · simp [fe 0x00000004#32 (by rw [k]; decide) (by decide) (by decide) (by decide)]
      · simp [fe 0x00000005#32 (by rw [k]; decide) (by decide) (by decide) (by decide)]
      · simp [fe 0x00000006#32 (by rw [k]; decide) (by decide) (by decide) (by decide)]

end Sys2Proof
end

