-- ==== Sys2Proof/Laws/Wire.lean ====
section
/-! SUPPORT. Big-endian encoding and decoding, and the packed tag, undo each other (20_memory.md R60, 30_encoding.md R86). -/

namespace Sys2Proof.Machine

theorem be32_extract (v : Word) :
    be32 (v.extractLsb' 24 8) (v.extractLsb' 16 8) (v.extractLsb' 8 8) (v.extractLsb' 0 8) = v := by
  apply BitVec.eq_of_getLsbD_eq
  intro i hi
  simp only [be32, BitVec.getLsbD_or, BitVec.getLsbD_shiftLeft, BitVec.getLsbD_setWidth, BitVec.getLsbD_extractLsb']
  rcases Nat.lt_or_ge i 8 with h | h
  · simp [hi, h, show i < 16 by omega, show i < 24 by omega]
  rcases Nat.lt_or_ge i 16 with h' | h'
  · simp [hi, h', show ¬ i < 8 by omega, show i < 24 by omega, show i - 8 < 8 by omega, show i - 8 < 32 by omega,
      show 8 + (i - 8) = i by omega]
  rcases Nat.lt_or_ge i 24 with h'' | h''
  · simp [hi, h'', show ¬ i < 8 by omega, show ¬ i < 16 by omega, show i - 16 < 8 by omega, show i - 16 < 32 by omega,
      show 16 + (i - 16) = i by omega, show ¬ i - 8 < 8 by omega]
  · simp [hi, show ¬ i < 8 by omega, show ¬ i < 16 by omega, show ¬ i < 24 by omega, show i - 24 < 8 by omega,
      show i - 24 < 32 by omega, show 24 + (i - 24) = i by omega, show ¬ i - 8 < 8 by omega,
      show ¬ i - 16 < 8 by omega]

theorem be32At_be32enc (v : Word) : be32At (be32enc v) 0 = v := be32_extract v

theorem extract_be32 (b0 b1 b2 b3 : Byte) :
    (be32 b0 b1 b2 b3).extractLsb' 24 8 = b0 ∧ (be32 b0 b1 b2 b3).extractLsb' 16 8 = b1 ∧
      (be32 b0 b1 b2 b3).extractLsb' 8 8 = b2 ∧ (be32 b0 b1 b2 b3).extractLsb' 0 8 = b3 := by
  refine ⟨?_, ?_, ?_, ?_⟩ <;>
  · apply BitVec.eq_of_getLsbD_eq
    intro i hi
    have h : i < 8 := hi
    simp only [be32, BitVec.getLsbD_or, BitVec.getLsbD_shiftLeft, BitVec.getLsbD_setWidth, BitVec.getLsbD_extractLsb']
    have key : i = 0 ∨ i = 1 ∨ i = 2 ∨ i = 3 ∨ i = 4 ∨ i = 5 ∨ i = 6 ∨ i = 7 := by omega
    rcases key with rfl | rfl | rfl | rfl | rfl | rfl | rfl | rfl <;> simp

/-- `BE32enc` undoes `BE32`. -/
theorem be32enc_be32 (b0 b1 b2 b3 : Byte) : be32enc (be32 b0 b1 b2 b3) = [b0, b1, b2, b3] := by
  obtain ⟨h0, h1, h2, h3⟩ := extract_be32 b0 b1 b2 b3
  simp only [be32enc, h0, h1, h2, h3]

/-- `Tag` undoes `PackTag` (R86). -/
theorem tagBytes_packTag (b0 b1 b2 b3 : Byte) : tagBytes (packTag b0 b1 b2 b3) = [b0, b1, b2, b3] := be32enc_be32 b0 b1 b2 b3

@[simp] theorem be32enc_length (v : Word) : (be32enc v).length = 4 := rfl

@[simp] theorem tagBytes_length (v : Word) : (tagBytes v).length = 4 := rfl

@[simp] theorem signature_length : signature.length = 8 := rfl

@[simp] theorem chunkBytes_length (size type crc : Word) (d : List Byte) :
    (chunkBytes size type crc d).length = 12 + d.length := by
  simp [chunkBytes]
  omega

/-- Encoding what four bytes decode to gives the four bytes. -/
theorem be32enc_be32At (bs : List Byte) (k : Nat) (h : k + 4 ≤ bs.length) : be32enc (be32At bs k) = (bs.drop k).take 4 := by
  rw [be32At, be32enc_be32]
  refine List.ext_getElem (by simp; omega) fun i h1 h2 => ?_
  simp only [List.length_cons, List.length_nil] at h1
  simp only [List.getElem_take, List.getElem_drop, byteAt]
  have key : i = 0 ∨ i = 1 ∨ i = 2 ∨ i = 3 := by omega
  have g : ∀ j (hj : j < bs.length), bs[j]?.getD 0#8 = bs[j] := fun j hj => by simp [List.getElem?_eq_getElem hj]
  rcases key with rfl | rfl | rfl | rfl <;> (simp; exact g _ _)

end Sys2Proof.Machine
end

