-- ==== Sys2Proof/Laws/Exec.lean ====
section
/-! SUPPORT. Everything each meaning can do, said once: which checks passed, and the outcome. -/

namespace Sys2Proof.Machine

theorem rangeOK_iff (a n : Nat) : rangeOK a n = true ↔ a + n ≤ 2 ^ 32 := by simp [rangeOK]

theorem rangeOK_eq_false_iff (a n : Nat) : rangeOK a n = false ↔ 2 ^ 32 < a + n := by
  simp [rangeOK]

/-- The CAPACITY test of R140 and R145, in sums. -/
theorem OperandRegs.fits_iff (r : OperandRegs) (n : Nat) : r.fits n = true ↔ r.dstCur.toNat + n ≤ r.dstLen.toNat := by
  simp [OperandRegs.fits]; omega

/-- When EMITSIG passes its checks (R140). -/
theorem emitsigCheck_none_iff (r : OperandRegs) :
    emitsigCheck r = none ↔
      r.dstBase.toNat + r.dstLen.toNat ≤ 2 ^ 32 ∧ r.dstCur.toNat + 8 ≤ r.dstLen.toNat := by
  unfold emitsigCheck
  rw [← rangeOK_iff, ← OperandRegs.fits_iff]
  cases rangeOK r.dstBase.toNat r.dstLen.toNat <;> cases r.fits 8 <;> simp

/-- When EMIT passes its checks (R143). -/
theorem emitCheck_none_iff (r : OperandRegs) :
    emitCheck r = none ↔
      r.dstBase.toNat + r.dstLen.toNat ≤ 2 ^ 32 ∧ r.chDaddr.toNat + r.chSize.toNat ≤ 2 ^ 32 ∧
        r.chSize = r.chDlen ∧ r.dstCur.toNat + r.emitLength ≤ r.dstLen.toNat ∧ r.overlaps = false := by
  unfold emitCheck
  rw [← rangeOK_iff, ← rangeOK_iff, ← OperandRegs.fits_iff]
  cases rangeOK r.dstBase.toNat r.dstLen.toNat <;> cases rangeOK r.chDaddr.toNat r.chSize.toNat <;>
    by_cases h : r.chSize = r.chDlen <;> cases r.fits r.emitLength <;> cases r.overlaps <;> simp [h]

/-- When EMIT's payload is clear of its write range (R146). -/
theorem OperandRegs.overlaps_eq_false_iff (o : OperandRegs) :
    o.overlaps = false ↔
      (o.chSize = 0 ∨ o.dstAddr + o.emitLength ≤ o.chDaddr.toNat ∨ o.chDaddr.toNat + o.chSize.toNat ≤ o.dstAddr) := by
  have : o.chSize = 0 ↔ o.chSize.toNat = 0 := by
    constructor
    · intro h; rw [h]; rfl
    · intro h; exact BitVec.eq_of_toNat_eq (by simpa using h)
  rw [this]
  unfold OperandRegs.overlaps
  simp only [Bool.and_eq_false_iff, decide_eq_false_iff_not]
  omega

/-- Everything a CRC command can do (R106). -/
theorem execCrcForm_cases (i : Instr) (init final : Bool) (s : State) :
    (rangeOK s.operands.regs.crcAddr.toNat s.operands.regs.crcLen.toNat = false ∧
      execCrcForm i init final s = .next (s.raise i .range)) ∨
    (rangeOK s.operands.regs.crcAddr.toNat s.operands.regs.crcLen.toNat = true ∧
      ((s.platform.anyDevice s.operands.regs.crcAddr.toNat s.operands.regs.crcLen.toNat = true ∧
          execCrcForm i init final s = .refused .deviceFootprint) ∨
        (s.Usable s.operands.regs.crcAddr.toNat s.operands.regs.crcLen.toNat ∧
          execCrcForm i init final s = .next (s.crcResult init final
            (s.engineBytes s.operands.regs.crcAddr.toNat s.operands.regs.crcLen.toNat)).finish) ∨
        (s.platform.anyDevice s.operands.regs.crcAddr.toNat s.operands.regs.crcLen.toNat = false ∧
          s.platform.allAnswer s.operands.regs.crcAddr.toNat s.operands.regs.crcLen.toNat = false ∧
          execCrcForm i init final s = .next (s.raise i .bus)))) := by
  cases h : rangeOK s.operands.regs.crcAddr.toNat s.operands.regs.crcLen.toNat
  · exact .inl ⟨rfl, by simp [execCrcForm, h]⟩
  · refine .inr ⟨rfl, ?_⟩
    simp only [execCrcForm, h, if_true]
    exact State.withRead_cases _ _ _ _ _ _

/-- Everything SIGCHK can do (R122). -/
theorem execSigchk_cases (s : State) :
    (rangeOK s.operands.regs.srcBase.toNat s.operands.regs.srcLen.toNat = false ∧
      execSigchk s = .next (s.raise .sigchk .range)) ∨
    (rangeOK s.operands.regs.srcBase.toNat s.operands.regs.srcLen.toNat = true ∧
      ((s.operands.regs.srcLen.toNat < 8 ∧ execSigchk s = .next (s.sigchkResult false)) ∨
        (8 ≤ s.operands.regs.srcLen.toNat ∧
          ((s.platform.anyDevice s.operands.regs.srcBase.toNat 8 = true ∧ execSigchk s = .refused .deviceFootprint) ∨
            (s.Usable s.operands.regs.srcBase.toNat 8 ∧
              execSigchk s = .next (s.sigchkResult (sigokBit (s.engineBytes s.operands.regs.srcBase.toNat 8)))) ∨
            (s.platform.anyDevice s.operands.regs.srcBase.toNat 8 = false ∧
              s.platform.allAnswer s.operands.regs.srcBase.toNat 8 = false ∧
              execSigchk s = .next (s.raise .sigchk .bus)))))) := by
  cases h : rangeOK s.operands.regs.srcBase.toNat s.operands.regs.srcLen.toNat
  · exact .inl ⟨rfl, by simp [execSigchk, h]⟩
  · refine .inr ⟨rfl, ?_⟩
    by_cases h8 : s.operands.regs.srcLen.toNat < 8
    · exact .inl ⟨h8, by simp [execSigchk, h, h8]⟩
    · refine .inr ⟨by omega, ?_⟩
      simp only [execSigchk, h, if_true, h8, if_false]
      exact State.withRead_cases _ _ _ _ _ _

/-- The size field of the header that PARSE reads (R129). -/
def State.parseSize (s : State) : Nat := (be32At (s.engineBytes s.operands.regs.srcAddr 8) 0).toNat

/-- The bytes that remain for PARSE (R126). -/
def State.parseRem (s : State) : Nat := remaining s.operands.regs.srcCur.toNat s.operands.regs.srcLen.toNat

/-- The crc field that PARSE reads (R127 step 6). -/
def State.parseCrc (s : State) : Word := be32At (s.engineBytes (s.operands.regs.srcAddr + 8 + s.parseSize) 4) 0

/-- The CRCERR that verification gives (R136). -/
def State.parseBad (s : State) : Bool :=
  crc32 s.table ((s.engineBytes s.operands.regs.srcAddr 8).drop 4 ++
    s.engineBytes (s.operands.regs.srcAddr + 8) s.parseSize) != s.parseCrc

/-- Everything PARSE can do (R127): an outcome for each way its checks and accesses can go, in their order (R194). -/
inductive ParseCase (s : State) : Host.Outcome State Fault Refusal → Prop where
  | range (h : rangeOK s.operands.regs.srcBase.toNat s.operands.regs.srcLen.toNat = false) :
      ParseCase s (.next (s.raise .parse .range))
  | short (h : rangeOK s.operands.regs.srcBase.toNat s.operands.regs.srcLen.toNat = true) (h8 : s.parseRem < 8) :
      ParseCase s (.next s.parseStop)
  | headerDevice (h : rangeOK s.operands.regs.srcBase.toNat s.operands.regs.srcLen.toNat = true) (h8 : 8 ≤ s.parseRem)
      (hd : s.platform.anyDevice s.operands.regs.srcAddr 8 = true) : ParseCase s (.refused .deviceFootprint)
  | headerBus (h : rangeOK s.operands.regs.srcBase.toNat s.operands.regs.srcLen.toNat = true) (h8 : 8 ≤ s.parseRem)
      (hd : s.platform.anyDevice s.operands.regs.srcAddr 8 = false)
      (ha : s.platform.allAnswer s.operands.regs.srcAddr 8 = false) : ParseCase s (.next (s.raise .parse .bus))
  | truncated (h : rangeOK s.operands.regs.srcBase.toNat s.operands.regs.srcLen.toNat = true) (h8 : 8 ≤ s.parseRem)
      (hu : s.Usable s.operands.regs.srcAddr 8) (ht : s.parseRem < s.parseSize + 12) : ParseCase s (.next s.parseStop)
  | crcDevice (h : rangeOK s.operands.regs.srcBase.toNat s.operands.regs.srcLen.toNat = true) (h8 : 8 ≤ s.parseRem)
      (hu : s.Usable s.operands.regs.srcAddr 8) (ht : s.parseSize + 12 ≤ s.parseRem)
      (hd : s.platform.anyDevice (s.operands.regs.srcAddr + 8 + s.parseSize) 4 = true) :
      ParseCase s (.refused .deviceFootprint)
  | crcBus (h : rangeOK s.operands.regs.srcBase.toNat s.operands.regs.srcLen.toNat = true) (h8 : 8 ≤ s.parseRem)
      (hu : s.Usable s.operands.regs.srcAddr 8) (ht : s.parseSize + 12 ≤ s.parseRem)
      (hd : s.platform.anyDevice (s.operands.regs.srcAddr + 8 + s.parseSize) 4 = false)
      (ha : s.platform.allAnswer (s.operands.regs.srcAddr + 8 + s.parseSize) 4 = false) :
      ParseCase s (.next (s.raise .parse .bus))
  | plain (h : rangeOK s.operands.regs.srcBase.toNat s.operands.regs.srcLen.toNat = true) (h8 : 8 ≤ s.parseRem)
      (hu : s.Usable s.operands.regs.srcAddr 8) (ht : s.parseSize + 12 ≤ s.parseRem)
      (hc : s.Usable (s.operands.regs.srcAddr + 8 + s.parseSize) 4) (hv : s.operands.verifyEn = false) :
      ParseCase s (.next (s.parseChunk (s.engineBytes s.operands.regs.srcAddr 8) s.parseCrc false))
  | payloadDevice (h : rangeOK s.operands.regs.srcBase.toNat s.operands.regs.srcLen.toNat = true) (h8 : 8 ≤ s.parseRem)
      (hu : s.Usable s.operands.regs.srcAddr 8) (ht : s.parseSize + 12 ≤ s.parseRem)
      (hc : s.Usable (s.operands.regs.srcAddr + 8 + s.parseSize) 4) (hv : s.operands.verifyEn = true)
      (hd : s.platform.anyDevice (s.operands.regs.srcAddr + 8) s.parseSize = true) :
      ParseCase s (.refused .deviceFootprint)
  | payloadBus (h : rangeOK s.operands.regs.srcBase.toNat s.operands.regs.srcLen.toNat = true) (h8 : 8 ≤ s.parseRem)
      (hu : s.Usable s.operands.regs.srcAddr 8) (ht : s.parseSize + 12 ≤ s.parseRem)
      (hc : s.Usable (s.operands.regs.srcAddr + 8 + s.parseSize) 4) (hv : s.operands.verifyEn = true)
      (hd : s.platform.anyDevice (s.operands.regs.srcAddr + 8) s.parseSize = false)
      (ha : s.platform.allAnswer (s.operands.regs.srcAddr + 8) s.parseSize = false) :
      ParseCase s (.next (s.raise .parse .bus))
  | verified (h : rangeOK s.operands.regs.srcBase.toNat s.operands.regs.srcLen.toNat = true) (h8 : 8 ≤ s.parseRem)
      (hu : s.Usable s.operands.regs.srcAddr 8) (ht : s.parseSize + 12 ≤ s.parseRem)
      (hc : s.Usable (s.operands.regs.srcAddr + 8 + s.parseSize) 4) (hv : s.operands.verifyEn = true)
      (hp : s.Usable (s.operands.regs.srcAddr + 8) s.parseSize) :
      ParseCase s (.next (s.parseChunk (s.engineBytes s.operands.regs.srcAddr 8) s.parseCrc s.parseBad))

theorem execParse_case (s : State) : ParseCase s (execParse s) := by
  cases h : rangeOK s.operands.regs.srcBase.toNat s.operands.regs.srcLen.toNat
  · have e : execParse s = .next (s.raise .parse .range) := by simp [execParse, h]
    exact e ▸ .range h
  by_cases h8 : s.parseRem < 8
  · have e : execParse s = .next s.parseStop := by
      unfold State.parseRem at h8
      simp [execParse, h, h8]
    exact e ▸ .short h h8
  have h8' := h8
  unfold State.parseRem at h8'
  unfold execParse
  simp only [h, if_true, h8', if_false]
  rcases State.withRead_cases s .parse s s.operands.regs.srcAddr 8 _ with ⟨hd, e⟩ | ⟨hu, e⟩ | ⟨hd, ha, e⟩ <;> rw [e]
  · exact .headerDevice h (by omega) hd
  · by_cases ht : s.parseRem < s.parseSize + 12
    · rw [if_pos (by unfold State.parseRem State.parseSize at ht; omega)]
      exact .truncated h (by omega) hu ht
    rw [if_neg (by unfold State.parseRem State.parseSize at ht; omega)]
    rcases State.withRead_cases s .parse s (s.operands.regs.srcAddr + 8 + s.parseSize) 4 _
      with ⟨hd, e⟩ | ⟨hc, e⟩ | ⟨hd, ha, e⟩ <;> unfold State.parseSize at e <;> rw [e]
    · exact .crcDevice h (by omega) hu (by omega) hd
    · cases hv : s.operands.verifyEn
      · exact .plain h (by omega) hu (by omega) hc hv
      · simp only [if_true]
        rcases State.withRead_cases s .parse s (s.operands.regs.srcAddr + 8) s.parseSize _
          with ⟨hd, e⟩ | ⟨hp, e⟩ | ⟨hd, ha, e⟩ <;> unfold State.parseSize at e <;> rw [e]
        · exact .payloadDevice h (by omega) hu (by omega) hc hv hd
        · exact .verified h (by omega) hu (by omega) hc hv hp
        · exact .payloadBus h (by omega) hu (by omega) hc hv hd ha
    · exact .crcBus h (by omega) hu (by omega) hd ha
  · exact .headerBus h (by omega) hd ha

/-- Everything EMITSIG can do (R140). -/
theorem execEmitsig_cases (s : State) :
    (∃ c, emitsigCheck s.operands.regs = some c ∧ execEmitsig s = .next (s.raise .emitsig c)) ∨
    (emitsigCheck s.operands.regs = none ∧
      ((s.platform.anyDevice s.operands.regs.dstAddr 8 = true ∧ execEmitsig s = .refused .deviceFootprint) ∨
        (s.Usable s.operands.regs.dstAddr 8 ∧
          execEmitsig s = .next ((s.engineStore s.operands.regs.dstAddr signature).advanceDst 8).finish) ∨
        (s.platform.anyDevice s.operands.regs.dstAddr 8 = false ∧
          s.platform.allAnswer s.operands.regs.dstAddr 8 = false ∧
          execEmitsig s = .next ((s.scramble s.operands.regs.dstAddr 8).raise .emitsig .bus)))) := by
  cases h : emitsigCheck s.operands.regs with
  | some c => exact .inl ⟨c, rfl, by simp [execEmitsig, h]⟩
  | none =>
    refine .inr ⟨rfl, ?_⟩
    simp only [execEmitsig, h]
    exact State.withWrite_cases s .emitsig s.operands.regs.dstAddr signature _

/-- Everything EMIT can do (R143). -/
theorem execEmit_cases (s : State) :
    (∃ c, emitCheck s.operands.regs = some c ∧ execEmit s = .next (s.raise .emit c)) ∨
    (emitCheck s.operands.regs = none ∧
      (((s.platform.anyDevice s.operands.regs.dstAddr s.operands.regs.emitLength = true ∨
            s.platform.anyDevice s.operands.regs.chDaddr.toNat s.operands.regs.chSize.toNat = true) ∧
          execEmit s = .refused .deviceFootprint) ∨
        (s.Usable s.operands.regs.dstAddr s.operands.regs.emitLength ∧
          s.Usable s.operands.regs.chDaddr.toNat s.operands.regs.chSize.toNat ∧
          execEmit s = .next ((s.engineStore s.operands.regs.dstAddr
            (chunkBytes s.operands.regs.chSize s.operands.regs.chType s.operands.regs.chCrc
              (s.engineBytes s.operands.regs.chDaddr.toNat s.operands.regs.chSize.toNat))).advanceDst
            s.operands.regs.emitLength).finish) ∨
        (s.platform.anyDevice s.operands.regs.dstAddr s.operands.regs.emitLength = false ∧
          s.platform.anyDevice s.operands.regs.chDaddr.toNat s.operands.regs.chSize.toNat = false ∧
          (s.platform.allAnswer s.operands.regs.dstAddr s.operands.regs.emitLength = false ∨
            s.platform.allAnswer s.operands.regs.chDaddr.toNat s.operands.regs.chSize.toNat = false) ∧
          execEmit s = .next ((s.scramble s.operands.regs.dstAddr s.operands.regs.emitLength).raise .emit .bus)))) := by
  cases h : emitCheck s.operands.regs with
  | some c => exact .inl ⟨c, rfl, by simp [execEmit, h]⟩
  | none =>
    refine .inr ⟨rfl, ?_⟩
    cases hw : s.platform.anyDevice s.operands.regs.dstAddr s.operands.regs.emitLength
    · simp only [execEmit, h, hw, Bool.false_eq_true, if_false]
      rcases State.withRead_cases s .emit (s.scramble s.operands.regs.dstAddr s.operands.regs.emitLength)
          s.operands.regs.chDaddr.toNat s.operands.regs.chSize.toNat _ with ⟨hd, e⟩ | ⟨hu, e⟩ | ⟨hd, ha, e⟩ <;> rw [e]
      · exact .inl ⟨.inr hd, rfl⟩
      · have hl : (chunkBytes s.operands.regs.chSize s.operands.regs.chType s.operands.regs.chCrc
            (s.engineBytes s.operands.regs.chDaddr.toNat s.operands.regs.chSize.toNat)).length =
            s.operands.regs.emitLength := by simp [OperandRegs.emitLength]
        rcases State.withWrite_cases s .emit s.operands.regs.dstAddr
            (chunkBytes s.operands.regs.chSize s.operands.regs.chType s.operands.regs.chCrc
              (s.engineBytes s.operands.regs.chDaddr.toNat s.operands.regs.chSize.toNat)) _
          with ⟨hd, e⟩ | ⟨hs, e⟩ | ⟨hd, ha, e⟩ <;> rw [e] <;> rw [hl] at *
        · rw [hw] at hd
          exact absurd hd (by simp)
        · exact .inr (.inl ⟨hs, hu, rfl⟩)
        · exact .inr (.inr ⟨trivial, hu.2, .inl ha, rfl⟩)
      · exact .inr (.inr ⟨trivial, hd, .inr ha, rfl⟩)
    · exact .inl ⟨.inl rfl, by simp [execEmit, h, hw]⟩

/-- Everything MKCHUNK can do (R152). -/
theorem execMkchunk_cases (s : State) :
    (rangeOK s.operands.regs.chDaddr.toNat s.operands.regs.chDlen.toNat = false ∧
      execMkchunk s = .next (s.raise .mkchunk .range)) ∨
    (rangeOK s.operands.regs.chDaddr.toNat s.operands.regs.chDlen.toNat = true ∧
      ((s.platform.anyDevice s.operands.regs.chDaddr.toNat s.operands.regs.chDlen.toNat = true ∧
          execMkchunk s = .refused .deviceFootprint) ∨
        (s.Usable s.operands.regs.chDaddr.toNat s.operands.regs.chDlen.toNat ∧
          execMkchunk s = .next (s.mkchunkResult
            (s.engineBytes s.operands.regs.chDaddr.toNat s.operands.regs.chDlen.toNat)).finish) ∨
        (s.platform.anyDevice s.operands.regs.chDaddr.toNat s.operands.regs.chDlen.toNat = false ∧
          s.platform.allAnswer s.operands.regs.chDaddr.toNat s.operands.regs.chDlen.toNat = false ∧
          execMkchunk s = .next (s.raise .mkchunk .bus)))) := by
  cases h : rangeOK s.operands.regs.chDaddr.toNat s.operands.regs.chDlen.toNat
  · exact .inl ⟨rfl, by simp [execMkchunk, h]⟩
  · refine .inr ⟨rfl, ?_⟩
    simp only [execMkchunk, h, if_true]
    exact State.withRead_cases _ _ _ _ _ _

/-- The CRC command with the given INIT and FINAL (R82). -/
def crcForm : Bool → Bool → Instr
  | false, false => .crc
  | true, false => .crcI
  | false, true => .crcF
  | true, true => .crcIF

/-- Every next state a command can complete in, with the checks that passed on the way. -/
inductive NextCase (s : State) : Instr → State → Prop where
  | nop : NextCase s .nop s.finish
  | badcmd (w : Word) : NextCase s (.badcmd w) (s.raise (.badcmd w) .badcmd)
  | rangeError (i : Instr) (hi : ∀ w, i ≠ .badcmd w) (hn : i ≠ .nop) (h1 : i ≠ .emitsig) (h2 : i ≠ .emit) :
      NextCase s i (s.raise i .range)
  | readError (i : Instr) (hi : ∀ w, i ≠ .badcmd w) (hn : i ≠ .nop) (h1 : i ≠ .emitsig) (h2 : i ≠ .emit) :
      NextCase s i (s.raise i .bus)
  | crc (init final : Bool)
      (hr : rangeOK s.operands.regs.crcAddr.toNat s.operands.regs.crcLen.toNat = true)
      (hu : s.Usable s.operands.regs.crcAddr.toNat s.operands.regs.crcLen.toNat) :
      NextCase s (crcForm init final) (s.crcResult init final
        (s.engineBytes s.operands.regs.crcAddr.toNat s.operands.regs.crcLen.toNat)).finish
  | sigchk (v : Bool) : NextCase s .sigchk (s.sigchkResult v)
  | parseStop : NextCase s .parse s.parseStop
  | parseChunk (bad : Bool) (hv : s.operands.verifyEn = false → bad = false)
      (h : rangeOK s.operands.regs.srcBase.toNat s.operands.regs.srcLen.toNat = true) (h8 : 8 ≤ s.parseRem)
      (hu : s.Usable s.operands.regs.srcAddr 8) (ht : s.parseSize + 12 ≤ s.parseRem)
      (hc : s.Usable (s.operands.regs.srcAddr + 8 + s.parseSize) 4) :
      NextCase s .parse (s.parseChunk (s.engineBytes s.operands.regs.srcAddr 8) s.parseCrc bad)
  | emitsigCheck (c : ErrCode) (h : emitsigCheck s.operands.regs = some c) (hc : c = .range ∨ c = .capacity) :
      NextCase s .emitsig (s.raise .emitsig c)
  | emitsig (h : Sys2Proof.Machine.emitsigCheck s.operands.regs = none) (hu : s.Usable s.operands.regs.dstAddr 8) :
      NextCase s .emitsig ((s.engineStore s.operands.regs.dstAddr signature).advanceDst 8).finish
  | emitsigBus (h : Sys2Proof.Machine.emitsigCheck s.operands.regs = none) :
      NextCase s .emitsig ((s.scramble s.operands.regs.dstAddr 8).raise .emitsig .bus)
  | emitCheck (c : ErrCode) (h : emitCheck s.operands.regs = some c)
      (hc : c = .range ∨ c = .size ∨ c = .capacity ∨ c = .overlap) : NextCase s .emit (s.raise .emit c)
  | emit (h : Sys2Proof.Machine.emitCheck s.operands.regs = none)
      (hw : s.Usable s.operands.regs.dstAddr s.operands.regs.emitLength)
      (hr : s.Usable s.operands.regs.chDaddr.toNat s.operands.regs.chSize.toNat) :
      NextCase s .emit ((s.engineStore s.operands.regs.dstAddr
        (chunkBytes s.operands.regs.chSize s.operands.regs.chType s.operands.regs.chCrc
          (s.engineBytes s.operands.regs.chDaddr.toNat s.operands.regs.chSize.toNat))).advanceDst
        s.operands.regs.emitLength).finish
  | emitBus (h : Sys2Proof.Machine.emitCheck s.operands.regs = none) :
      NextCase s .emit ((s.scramble s.operands.regs.dstAddr s.operands.regs.emitLength).raise .emit .bus)
  | mkchunk (hr : rangeOK s.operands.regs.chDaddr.toNat s.operands.regs.chDlen.toNat = true)
      (hu : s.Usable s.operands.regs.chDaddr.toNat s.operands.regs.chDlen.toNat) :
      NextCase s .mkchunk (s.mkchunkResult
        (s.engineBytes s.operands.regs.chDaddr.toNat s.operands.regs.chDlen.toNat)).finish

theorem emitsigCheck_code {r : OperandRegs} {c : ErrCode} (h : emitsigCheck r = some c) : c = .range ∨ c = .capacity := by
  unfold emitsigCheck at h
  split at h
  · exact .inl (by cases h; rfl)
  · split at h
    · exact .inr (by cases h; rfl)
    · cases h

theorem emitCheck_code {r : OperandRegs} {c : ErrCode} (h : emitCheck r = some c) :
    c = .range ∨ c = .size ∨ c = .capacity ∨ c = .overlap := by
  unfold emitCheck at h
  repeat' split at h
  all_goals cases h
  all_goals simp

theorem execCrcForm_nextCase {init final : Bool} {s t : State} (h : execCrcForm (crcForm init final) init final s = .next t) :
    NextCase s (crcForm init final) t := by
  have hb : ∀ w, crcForm init final ≠ .badcmd w := by cases init <;> cases final <;> simp [crcForm]
  rcases execCrcForm_cases (crcForm init final) init final s with ⟨-, e⟩ | ⟨hr, ⟨-, e⟩ | ⟨hu, e⟩ | ⟨-, -, e⟩⟩ <;>
    rw [e] at h <;> cases h
  · exact .rangeError _ hb (by cases init <;> cases final <;> simp [crcForm])
      (by cases init <;> cases final <;> simp [crcForm]) (by cases init <;> cases final <;> simp [crcForm])
  · exact .crc init final hr hu
  · exact .readError _ hb (by cases init <;> cases final <;> simp [crcForm])
      (by cases init <;> cases final <;> simp [crcForm]) (by cases init <;> cases final <;> simp [crcForm])

/-- Everything a command can complete in. -/
theorem exec_nextCase {i : Instr} {s t : State} (h : exec i s = .next t) : NextCase s i t := by
  cases i with
  | nop => cases h; exact .nop
  | crc => exact execCrcForm_nextCase (init := false) (final := false) h
  | crcI => exact execCrcForm_nextCase (init := true) (final := false) h
  | crcF => exact execCrcForm_nextCase (init := false) (final := true) h
  | crcIF => exact execCrcForm_nextCase (init := true) (final := true) h
  | sigchk =>
    rcases execSigchk_cases s with ⟨-, e⟩ | ⟨-, ⟨-, e⟩ | ⟨-, ⟨-, e⟩ | ⟨-, e⟩ | ⟨-, -, e⟩⟩⟩ <;>
      rw [exec, e] at h <;> cases h
    · exact .rangeError _ (by simp) (by simp) (by simp) (by simp)
    · exact .sigchk _
    · exact .sigchk _
    · exact .readError _ (by simp) (by simp) (by simp) (by simp)
  | parse =>
    have hp := execParse_case s
    rw [exec] at h
    rw [h] at hp
    cases hp with
    | range => exact .rangeError _ (by simp) (by simp) (by simp) (by simp)
    | short => exact .parseStop
    | headerBus => exact .readError _ (by simp) (by simp) (by simp) (by simp)
    | truncated => exact .parseStop
    | crcBus => exact .readError _ (by simp) (by simp) (by simp) (by simp)
    | plain hr h8 hu ht hc hv => exact .parseChunk _ (fun _ => rfl) hr h8 hu ht hc
    | payloadBus => exact .readError _ (by simp) (by simp) (by simp) (by simp)
    | verified hr h8 hu ht hc hv => exact .parseChunk _ (fun hv' => by rw [hv] at hv'; cases hv') hr h8 hu ht hc
  | emitsig =>
    rcases execEmitsig_cases s with ⟨c, hc, e⟩ | ⟨hn, ⟨-, e⟩ | ⟨hu, e⟩ | ⟨-, -, e⟩⟩ <;> rw [exec, e] at h <;> cases h
    · exact .emitsigCheck c hc (emitsigCheck_code hc)
    · exact .emitsig hn hu
    · exact .emitsigBus hn
  | emit =>
    rcases execEmit_cases s with ⟨c, hc, e⟩ | ⟨hn, ⟨-, e⟩ | ⟨hw, hr, e⟩ | ⟨-, -, -, e⟩⟩ <;> rw [exec, e] at h <;> cases h
    · exact .emitCheck c hc (emitCheck_code hc)
    · exact .emit hn hw hr
    · exact .emitBus hn
  | mkchunk =>
    rcases execMkchunk_cases s with ⟨-, e⟩ | ⟨hr, ⟨-, e⟩ | ⟨hu, e⟩ | ⟨-, -, e⟩⟩ <;> rw [exec, e] at h <;> cases h
    · exact .rangeError _ (by simp) (by simp) (by simp) (by simp)
    · exact .mkchunk hr hu
    · exact .readError _ (by simp) (by simp) (by simp) (by simp)
  | badcmd w => cases h; exact .badcmd w

end Sys2Proof.Machine
end

