-- ==== Sys2Proof/Laws/PerInstr.lean ====
section
/-! SUPPORT. Which commands the reserved words stand for, one lemma per command (30_encoding.md R83): the word of a well-formed
command is reserved exactly when the command is BADCMD. -/

namespace Sys2Proof.Laws.WordClass

/-- The word of a well-formed command is reserved exactly when it is a BADCMD. -/
def Statement (i : Instr) : Prop :=
  i.wellFormed = true → (reservedWord (encode i) = true ↔ ∃ w, i = .badcmd w)

theorem nop : Statement .nop := by simp [Statement, show reservedWord (encode .nop) = false by decide]

theorem crc : Statement .crc := by simp [Statement, show reservedWord (encode .crc) = false by decide]

theorem crcI : Statement .crcI := by simp [Statement, show reservedWord (encode .crcI) = false by decide]

theorem crcF : Statement .crcF := by simp [Statement, show reservedWord (encode .crcF) = false by decide]

theorem crcIF : Statement .crcIF := by simp [Statement, show reservedWord (encode .crcIF) = false by decide]

theorem sigchk : Statement .sigchk := by simp [Statement, show reservedWord (encode .sigchk) = false by decide]

theorem parse : Statement .parse := by simp [Statement, show reservedWord (encode .parse) = false by decide]

theorem emitsig : Statement .emitsig := by simp [Statement, show reservedWord (encode .emitsig) = false by decide]

theorem emit : Statement .emit := by simp [Statement, show reservedWord (encode .emit) = false by decide]

theorem mkchunk : Statement .mkchunk := by simp [Statement, show reservedWord (encode .mkchunk) = false by decide]

theorem badcmd (w : Word) : Statement (.badcmd w) := fun h => ⟨fun _ => ⟨w, rfl⟩, fun _ => h⟩

end Sys2Proof.Laws.WordClass
end

