-- ==== Sys2Proof/Tests/Slice0.lean ====
section
/-! SUPPORT. Tests with the vectors of 95_test_vectors.md and the words of 30_encoding.md, and for every statement with hypotheses
a state that meets them. -/

namespace Sys2Proof.Tests

open Sys2Proof Sys2Proof.Machine

-- One test after the other: many at once need a stack each, more than the memory limit holds.
set_option Elab.async false

/-! ## Helpers -/

/-- The idle state of 95_test_vectors.md, with operand registers and memory. -/
def idle (r : OperandRegs) (m : Memory) : State := { State.reset.withTableBuilt with regs := r, mem := m }

/-- The idle state with a command accepted. -/
def flying (i : Instr) (r : OperandRegs) (m : Memory) : State := (idle r m).accept (encode i)

/-- A state on a platform whose memory is the one region, and whose devices are those given. -/
def onPlatform (s : State) (base size : Nat) (devices : List Region) : State :=
  { s with platform := { s.platform with memory := [⟨base, size⟩], devices := devices } }

/-- Memory that holds the bytes from an address on. -/
def memAt (a : Nat) (bs : List Byte) : Memory := Memory.writeBytes [] a bs

def crcRegs (a n : Word) : OperandRegs := { OperandRegs.reset with crcAddr := a, crcLen := n }

def srcRegs (b n c : Word) : OperandRegs := { OperandRegs.reset with srcBase := b, srcLen := n, srcCur := c }

def dstRegs (b n c : Word) : OperandRegs := { OperandRegs.reset with dstBase := b, dstLen := n, dstCur := c }

/-- The registers of V61, with DST_LEN and the place and sizes of the payload left open. -/
def emitRegs (dstLen daddr size dlen : Word) : OperandRegs :=
  { dstRegs 0x4000 dstLen 8 with
    chType := 0x74455874, chDaddr := daddr, chSize := size, chDlen := dlen, chCrc := 0xB6A1EA85 }

/-- The registers of V81. -/
def mkRegs (a n : Word) : OperandRegs := { OperandRegs.reset with chType := 0x74455874, chDaddr := a, chDlen := n }

/-- What holds of the next state. -/
def after (o : Host.Outcome State Fault Refusal) (p : State → Bool) : Bool :=
  match o with
  | .next t => p t
  | .fault _ => false
  | .refused _ => false

theorem after_next {o : Host.Outcome State Fault Refusal} {p : State → Bool} (h : after o p = true) :
    ∃ t, o = .next t ∧ p t = true := by
  cases o with
  | next t => exact ⟨t, rfl, h⟩
  | fault f => cases h
  | refused e => cases h

/-- "123456789". -/
def digits : List Byte := [0x31, 0x32, 0x33, 0x34, 0x35, 0x36, 0x37, 0x38, 0x39]

/-- The IEND chunk after a signature (V30). -/
def iendFile : List Byte :=
  [0x89, 0x50, 0x4E, 0x47, 0x0D, 0x0A, 0x1A, 0x0A, 0, 0, 0, 0, 0x49, 0x45, 0x4E, 0x44, 0xAE, 0x42, 0x60, 0x82]

/-- "a=b". -/
def payload : List Byte := [0x61, 0x3D, 0x62]

/-! ## Well-formedness: a legal word is no BADCMD (R83) -/

theorem test_wf_refuses_badcmd_nop : Instr.wellFormed (.badcmd 0x00000000#32) = false := by decide

theorem test_wf_refuses_badcmd_crcIF : Instr.wellFormed (.badcmd 0x00000301#32) = false := by decide

theorem test_wf_refuses_badcmd_mkchunk : Instr.wellFormed (.badcmd 0x00000006#32) = false := by decide

theorem test_wf_takes_rsv : Instr.wellFormed (.badcmd 0x00000400#32) = true := by decide

theorem test_wf_takes_op : Instr.wellFormed (.badcmd 0x00000007#32) = true := by decide

theorem test_wf_takes_init : Instr.wellFormed (.badcmd 0x00000102#32) = true := by decide

/-! ## Decoding: RSV, FINAL, INIT and OP written out (R80 to R83) -/

theorem test_decode_nop : decode (0#22 ++ 0#1 ++ 0#1 ++ 0x00#8) = .nop := by decide

theorem test_decode_crc : decode (0#22 ++ 0#1 ++ 0#1 ++ 0x01#8) = .crc := by decide

theorem test_decode_crcI : decode (0#22 ++ 0#1 ++ 1#1 ++ 0x01#8) = .crcI := by decide

theorem test_decode_crcF : decode (0#22 ++ 1#1 ++ 0#1 ++ 0x01#8) = .crcF := by decide

theorem test_decode_crcIF : decode (0#22 ++ 1#1 ++ 1#1 ++ 0x01#8) = .crcIF := by decide

theorem test_decode_sigchk : decode (0#22 ++ 0#1 ++ 0#1 ++ 0x02#8) = .sigchk := by decide

theorem test_decode_parse : decode (0#22 ++ 0#1 ++ 0#1 ++ 0x03#8) = .parse := by decide

theorem test_decode_emitsig : decode (0#22 ++ 0#1 ++ 0#1 ++ 0x04#8) = .emitsig := by decide

theorem test_decode_emit : decode (0#22 ++ 0#1 ++ 0#1 ++ 0x05#8) = .emit := by decide

theorem test_decode_mkchunk : decode (0#22 ++ 0#1 ++ 0#1 ++ 0x06#8) = .mkchunk := by decide

theorem test_decode_badcmd_op : decode (0#22 ++ 0#1 ++ 0#1 ++ 0xFF#8) = .badcmd 0x000000FF#32 := by decide

theorem test_decode_badcmd_final : decode (0#22 ++ 1#1 ++ 0#1 ++ 0x03#8) = .badcmd 0x00000203#32 := by decide

theorem test_decodeTableWord : decodeTableWord 32 0x301 = some .crcIF := by decide

/-! ## One command each, with the expected values of 95_test_vectors.md -/

/-- V90. -/
theorem test_nop :
    after (exec .nop { flying .nop OperandRegs.reset [] with status := ⟨true, false, false, true, false, false, false, .capacity⟩ })
      (fun t => t.status.toWord == 0x0000000A#32) = true := by decide +kernel

/-- V12. -/
theorem test_crc_empty :
    after (exec .crc (flying .crc (crcRegs 0x1000 0) []))
      (fun t => t.regs.crcAcc == 0xFFFFFFFF#32 && t.crcRes == 0 && t.status.toWord == 0x0000000A#32) = true := by decide +kernel

/-- V10. -/
theorem test_crcI :
    after (exec .crcI (flying .crcI (crcRegs 0x1000 4) (memAt 0x1000 digits)))
      (fun t => t.regs.crcAcc == 0x641C1F5C#32 && t.crcRes == 0) = true := by decide +kernel

/-- V11. -/
theorem test_crcF :
    after (exec .crcF (flying .crcF { crcRegs 0x1004 5 with crcAcc := 0x641C1F5C } (memAt 0x1000 digits)))
      (fun t => t.regs.crcAcc == 0x340BC6D9#32 && t.crcRes == 0xCBF43926#32) = true := by decide +kernel

/-- V2. -/
theorem test_crcIF :
    after (exec .crcIF (flying .crcIF (crcRegs 0x1000 9) (memAt 0x1000 digits)))
      (fun t => t.regs.crcAcc == 0x340BC6D9#32 && t.crcRes == 0xCBF43926#32) = true := by decide +kernel

/-- V15. -/
theorem test_crcIF_range :
    after (exec .crcIF (flying .crcIF { crcRegs 0xFFFFFFFF 2 with crcAcc := 0x1234 } []))
      (fun t => t.regs.crcAcc == 0x1234#32 && t.status.toWord == 0x0000020A#32) = true := by decide +kernel

/-- V26. -/
theorem test_sigchk_top :
    after (exec .sigchk (flying .sigchk (srcRegs 0xFFFFFFF8 8 0) (memAt 0xFFFFFFF8 (iendFile.take 8))))
      (fun t => t.status.toWord == 0x0000002A#32) = true := by decide +kernel

/-- V23. -/
theorem test_sigchk_last_byte :
    after (exec .sigchk (flying .sigchk (srcRegs 0x2000 8 0)
        (memAt 0x2000 [0x89, 0x50, 0x4E, 0x47, 0x0D, 0x0A, 0x1A, 0x0B])))
      (fun t => t.status.toWord == 0x0000000A#32) = true := by decide +kernel

/-- V30. -/
theorem test_parse_iend :
    after (exec .parse (flying .parse (srcRegs 0x2000 20 8) (memAt 0x2000 iendFile)))
      (fun t => t.regs.chType == 0x49454E44#32 && t.regs.chDaddr == 0x2010#32 && t.regs.chCrc == 0xAE426082#32
        && t.regs.srcCur == 20#32 && t.status.toWord == 0x0000000A#32) = true := by decide +kernel

/-- V39. -/
theorem test_parse_verify :
    after (exec .parse ({ idle (srcRegs 0x2000 20 8) (memAt 0x2000 (iendFile.take 19 ++ [0x83])) with
        ctrl := ⟨false, true⟩ } : State))
      (fun t => t.regs.chCrc == 0xAE426083#32 && t.status.toWord == 0x0000004A#32) = true := by decide +kernel

/-- V51. -/
theorem test_emitsig_fits :
    after (exec .emitsig (flying .emitsig (dstRegs 0x4000 8 0) []))
      (fun t => Memory.readBytes t.mem 0x4000 8 == [0x89#8, 0x50, 0x4E, 0x47, 0x0D, 0x0A, 0x1A, 0x0A]
        && t.regs.dstCur == 8#32) = true := by decide +kernel

/-- V52. -/
theorem test_emitsig_capacity :
    after (exec .emitsig (flying .emitsig (dstRegs 0x4000 7 0) []))
      (fun t => t.mem == [] && t.status.toWord == 0x0000030A#32) = true := by decide +kernel

/-- V62. -/
theorem test_emit_fits :
    after (exec .emit (flying .emit (emitRegs 23 0x3000 3 3) (memAt 0x3000 payload)))
      (fun t => Memory.readBytes t.mem 0x4008 15 ==
          [0x00#8, 0x00, 0x00, 0x03, 0x74, 0x45, 0x58, 0x74, 0x61, 0x3D, 0x62, 0xB6, 0xA1, 0xEA, 0x85]
        && t.regs.dstCur == 23#32) = true := by decide +kernel

/-- V66. -/
theorem test_emit_overlap :
    after (exec .emit (flying .emit (emitRegs 35 0x4010 3 3) []))
      (fun t => t.mem == [] && t.status.toWord == 0x0000050A#32) = true := by decide +kernel

/-- V85. -/
theorem test_mkchunk :
    after (exec .mkchunk (flying .mkchunk { mkRegs 0x3000 3 with crcAcc := 0x12345678 } (memAt 0x3000 payload)))
      (fun t => t.regs.chSize == 3#32 && t.regs.chCrc == 0xB6A1EA85#32 && t.regs.crcAcc == 0x12345678#32) = true := by
  decide +kernel

/-- V84. -/
theorem test_mkchunk_range :
    after (exec .mkchunk (flying .mkchunk (mkRegs 0xFFFFFFFF 2) [])) (fun t => t.status.toWord == 0x0000020A#32) = true := by
  decide +kernel

/-- V91. -/
theorem test_badcmd :
    after (exec (.badcmd 0x00000007#32)
        { flying (.badcmd 0x00000007#32) OperandRegs.reset [] with
          status := ⟨true, false, false, true, true, true, false, .ok⟩ })
      (fun t => t.status.toWord == 0x0000013A#32) = true := by decide +kernel

/-! ## The port, reset and the fetch of the host's probe -/

/-- V96. -/
theorem test_busy_write :
    ((flying .crcIF (crcRegs 0x1000 9) []).regWrite .CRC_LEN 5).regRead .CRC_LEN = 9#32 ∧
      ((flying .crcIF (crcRegs 0x1000 9) []).regWrite .CRC_LEN 5).status.ovf = true := by decide +kernel

/-- V103. -/
theorem test_tblData :
    ((idle OperandRegs.reset []).regWrite .TBL_IDX 0x180).regRead .TBL_DATA = 0xEDB88320#32 := by decide +kernel

/-- V101. -/
theorem test_reset :
    after (step { flying .crcIF (crcRegs 0x1000 9) [] with turns := [.reset] })
      (fun t => t.regRead .STATUS == 0x00000001#32 && t.regRead .CRC_ACC == 0xFFFFFFFF#32
        && t.regRead .CRC_LEN == 0) = true := by decide +kernel

theorem test_withFetchWord_crcIF :
    after (step (State.reset.withFetchWord 32 0x301)) (fun t => t.status.toWord == 0x0000000A#32) = true := by decide +kernel

/-- V1: the CRC of the empty range that the reset registers name. -/
theorem test_withFetchWord_result :
    after (step (State.reset.withFetchWord 32 0x301)) (fun t => t.crcRes == 0 && t.regs.crcAcc == 0xFFFFFFFF#32) = true := by
  decide +kernel

/-! ## States that meet the hypotheses of the statements -/

theorem nil_wf : Memory.wf [] := by decide

/-- Whether the outcome is the refusal. -/
def refusedWith (o : Host.Outcome State Fault Refusal) (e : Refusal) : Bool :=
  match o with
  | .next _ => false
  | .fault _ => false
  | .refused r => decide (r = e)

theorem refusedWith_iff {o : Host.Outcome State Fault Refusal} {e : Refusal} (h : refusedWith o e = true) :
    o = .refused e := by
  cases o with
  | next t => cases h
  | fault f => cases h
  | refused r => exact congrArg _ (of_decide_eq_true h)

/-- The idle state meets the invariant, on any platform, with any memory in canonical form. -/
theorem idle_inv (r : OperandRegs) (m : Memory) (p : Platform) (h : m.wf) : ({ idle r m with platform := p } : State).Inv where
  memWf := h
  tablePrefix := by simp [idle, State.withTableBuilt, State.reset, Status.reset, fullTable]
  tableSize := by simp [idle, State.withTableBuilt, State.reset, Status.reset]
  readyIff := by simp [idle, State.withTableBuilt, State.reset, Status.reset, Status.built]
  busyIff := by simp [idle, State.withTableBuilt, State.reset, Status.reset, Status.built]
  buildAlone := fun _ => rfl
  latched := fun _ hr => by cases hr
  busyNotDone := fun hb => by cases hb
  racedInFlight := fun _ => rfl
  coherentClean := fun _ => ⟨rfl, rfl, rfl⟩

/-- A state with a command in flight meets the invariant. -/
theorem flying_inv (i : Instr) (r : OperandRegs) (m : Memory) (h : m.wf) : (flying i r m).Inv where
  memWf := h
  tablePrefix := by simp [flying, idle, State.withTableBuilt, State.reset, Status.reset, fullTable]
  tableSize := by simp [flying, idle, State.withTableBuilt, State.reset, Status.reset]
  readyIff := by simp [flying, idle, State.withTableBuilt, State.reset, Status.reset, Status.built, Status.accepted]
  busyIff := by simp [flying, idle, State.withTableBuilt, State.reset, Status.reset, Status.built, Status.accepted]
  buildAlone := fun hb => by cases hb
  latched := fun _ hr => by cases hr; rfl
  busyNotDone := fun _ => rfl
  racedInFlight := fun _ => rfl
  coherentClean := fun _ => ⟨rfl, rfl, rfl⟩

/-- The state in which the builder has written one entry meets the invariant. -/
theorem building_inv : State.Inv { State.reset with table := [tableEntry 0] } where
  memWf := nil_wf
  tablePrefix := rfl
  tableSize := by simp
  readyIff := by simp [State.reset, Status.reset]
  busyIff := by simp [State.reset, Status.reset]
  buildAlone := fun _ => rfl
  latched := fun _ hr => by cases hr
  busyNotDone := fun _ => rfl
  racedInFlight := fun _ => rfl
  coherentClean := fun _ => ⟨rfl, rfl, rfl⟩

theorem memAt_wf (a : Nat) (bs : List Byte) : (memAt a bs).wf := Memory.writeBytes_wf bs nil_wf a

theorem witness_DecodeOfEncode : Instr.wellFormed (.badcmd 0x00000007#32) = true ∧ Instr.wellFormed .nop = true := by decide

theorem witness_ReservedWords :
    decode 0x00000007#32 = .badcmd 0x00000007#32 ∧ (idle OperandRegs.reset []).status.busy = false := by decide

theorem witness_StepRunsTheDecodedCommand :
    (∃ (s : State) (r : CmdRecord) (ts : List Turn), s.turns = .engine :: ts ∧ s.inflight = some r) ∧
    (∃ (s : State) (r : CmdRecord), s.turns = [] ∧ s.status.busy = true ∧ s.inflight = some r) :=
  ⟨⟨{ flying .parse OperandRegs.reset [] with turns := [.engine] }, _, _, rfl, rfl⟩,
    ⟨flying .parse OperandRegs.reset [], _, rfl, rfl, rfl⟩⟩

/-- The Engine's step, an agent's step and the reset. -/
theorem witness_StepKeepsInv :
    (∃ s t : State, s.Inv ∧ s.inflight.isSome = true ∧ step s = .next t) ∧
    (∃ s t : State, s.Inv ∧ s.inflight = none ∧ step s = .next t) :=
  ⟨⟨flying .nop OperandRegs.reset [], _, flying_inv _ _ _ nil_wf, rfl, rfl⟩,
    ⟨idle OperandRegs.reset [], _, idle_inv _ _ _ nil_wf, rfl, rfl⟩⟩

theorem witness_EveryCommandCompletes :
    ∃ s : State, s.Inv ∧ s.platform.devices = [] ∧ s.turns = [] ∧ s.inflight.isSome = true :=
  ⟨flying .parse OperandRegs.reset [], flying_inv _ _ _ nil_wf, rfl, rfl, rfl⟩

/-- A platform with a device at 0x1008 only: one byte. -/
def dev (i : Instr) (r : OperandRegs) (m : Memory) : State := onPlatform (flying i r m) 0 (2 ^ 32) [⟨0x1008, 1⟩]

/-- A refusal, and a footprint that holds a device. -/
theorem witness_CommandsStopOnlyOnDevices :
    (∃ (i : Instr) (s : State) (e : Refusal), exec i s = .refused e) ∧
    (∃ p ∈ (dev .sigchk (srcRegs 0x1001 8 0) []).footprint .sigchk (dev .sigchk (srcRegs 0x1001 8 0) []).operands,
      (dev .sigchk (srcRegs 0x1001 8 0) []).platform.anyDevice p.1 p.2 = true) :=
  ⟨⟨.sigchk, dev .sigchk (srcRegs 0x1001 8 0) [], .deviceFootprint, refusedWith_iff (by decide +kernel)⟩,
    ⟨(0x1001, 8), by decide +kernel, by decide +kernel⟩⟩

/-- A reset during EMITSIG onto the device, in the last byte of its write set. -/
theorem witness_DeviceFootprint_reset :
    ∃ (s : State) (r : CmdRecord) (ts : List Turn), s.turns = .reset :: ts ∧ s.inflight = some r ∧
      ∃ p ∈ s.footprint (decode r.word) r, s.platform.anyDevice p.1 p.2 = true :=
  ⟨{ dev .emitsig (dstRegs 0x1001 8 0) [] with turns := [.reset] }, _, [], rfl, rfl, (0x1001, 8), by decide +kernel,
    by decide +kernel⟩

theorem witness_DeviceFootprint_crc :
    (dev .crc (crcRegs 0x1000 9) []).operands.regs.crcAddr.toNat + (dev .crc (crcRegs 0x1000 9) []).operands.regs.crcLen.toNat
        ≤ 2 ^ 32 ∧
      (dev .crc (crcRegs 0x1000 9) []).platform.anyDevice 0x1000 9 = true ∧
      (dev .crc (crcRegs 0x1000 8) []).platform.anyDevice 0x1000 8 = false := by decide +kernel

theorem witness_DeviceFootprint_sigchk :
    (dev .sigchk (srcRegs 0x1001 8 0) []).operands.regs.srcBase.toNat = 0x1001 ∧
      (dev .sigchk (srcRegs 0x1001 8 0) []).operands.regs.srcLen.toNat = 8 ∧
      (dev .sigchk (srcRegs 0x1001 8 0) []).platform.anyDevice 0x1001 8 = true := by decide +kernel

theorem witness_DeviceFootprint_parse_header :
    (dev .parse (srcRegs 0x1000 16 8) []).operands.regs.srcLen.toNat = 8 + 8 ∧
      (dev .parse (srcRegs 0x1000 16 8) []).platform.anyDevice 0x1008 8 = true := by decide +kernel

/-- The header ends at the device, the crc field begins on it (size 0). -/
theorem witness_DeviceFootprint_parse_crc :
    (dev .parse (srcRegs 0x0FF8 20 8) []).platform.allAnswer 0x1000 8 = true ∧
      (dev .parse (srcRegs 0x0FF8 20 8) []).platform.anyDevice 0x1000 8 = false ∧
      (be32 ((dev .parse (srcRegs 0x0FF8 20 8) []).engineByte 0x1000) ((dev .parse (srcRegs 0x0FF8 20 8) []).engineByte 0x1001)
        ((dev .parse (srcRegs 0x0FF8 20 8) []).engineByte 0x1002)
        ((dev .parse (srcRegs 0x0FF8 20 8) []).engineByte 0x1003)).toNat = 0 ∧
      (dev .parse (srcRegs 0x0FF8 20 8) []).platform.anyDevice 0x1008 4 = true := by decide +kernel

/-- A payload of one byte, the device, between the header and the crc field. -/
theorem witness_DeviceFootprint_parse_payload :
    let s : State := onPlatform (State.accept { idle (srcRegs 0x0FF8 21 8) (memAt 0x1003 [1]) with ctrl := ⟨false, true⟩ }
      (encode .parse)) 0 (2 ^ 32) [⟨0x1008, 1⟩]
    s.operands.verifyEn = true ∧ s.platform.anyDevice 0x1000 8 = false ∧ s.platform.anyDevice 0x1009 4 = false ∧
      s.platform.anyDevice 0x1008 1 = true ∧ s.engineByte 0x1003 = 1#8 := by decide +kernel

theorem witness_DeviceFootprint_emitsig :
    (dev .emitsig (dstRegs 0x1001 8 0) []).operands.regs.dstLen.toNat = 8 ∧
      (dev .emitsig (dstRegs 0x1001 8 0) []).platform.anyDevice 0x1001 8 = true := by decide +kernel

/-- The destination on the device, and the payload on the device. -/
theorem witness_DeviceFootprint_emit :
    (emitCheck { emitRegs 35 0x3000 3 3 with dstBase := 0x1000 } = none ∧
      (dev .emit OperandRegs.reset []).platform.anyDevice (0x1000 + 8) (12 + 3) = true) ∧
    (emitCheck (emitRegs 35 0x1006 3 3) = none ∧
      (dev .emit OperandRegs.reset []).platform.anyDevice 0x1006 3 = true) := by decide +kernel

theorem witness_DeviceFootprint_mkchunk :
    (dev .mkchunk (mkRegs 0x1008 1) []).operands.regs.chDaddr.toNat + 1 ≤ 2 ^ 32 ∧
      (dev .mkchunk (mkRegs 0x1008 1) []).platform.anyDevice 0x1008 1 = true := by decide +kernel

/-- A platform whose memory is 0x1000 to 0x4007. -/
def low (i : Instr) (r : OperandRegs) (m : Memory) : State := onPlatform (flying i r m) 0x1000 0x3008 []

/-- An error of each kind of command: RANGE in SIGCHK, BUS in EMITSIG (its last byte) and in EMIT. -/
theorem witness_ErrorsAreFailClosed :
    (∃ t, exec .sigchk (flying .sigchk (srcRegs 0xFFFFFFF9 8 0) []) = .next t ∧ (t.status.errcode == .range) = true) ∧
    (∃ t, exec .emitsig (low .emitsig (dstRegs 0x4001 8 0) []) = .next t ∧ (t.status.errcode == .bus) = true) ∧
    (∃ t, exec .emit (low .emit (emitRegs 35 0x3000 3 3) []) = .next t ∧ (t.status.errcode == .bus) = true) ∧
    Memory.wf (low .emit (emitRegs 35 0x3000 3 3) []).mem :=
  ⟨after_next (p := fun t => t.status.errcode == .range) (by decide +kernel),
    after_next (p := fun t => t.status.errcode == .bus) (by decide +kernel),
    after_next (p := fun t => t.status.errcode == .bus) (by decide +kernel), by decide +kernel⟩

theorem witness_ResultBitsHaveTheirWriters :
    (∃ t, exec .parse (flying .parse (srcRegs 0xFFFFFFF0 0x20 8) []) = .next t ∧ (t.status.errcode == .range) = true) ∧
    (∃ t, exec .sigchk (flying .sigchk (srcRegs 0x2000 7 0) []) = .next t ∧ (t.status.errcode == .ok) = true) :=
  ⟨after_next (p := fun t => t.status.errcode == .range) (by decide +kernel),
    after_next (p := fun t => t.status.errcode == .ok) (by decide +kernel)⟩

theorem witness_CommandsWriteOnlyTheirRegisters :
    ∃ t, exec .mkchunk (flying .mkchunk (mkRegs 0x3000 3) []) = .next t ∧ (t.regs.chSize == 3#32) = true :=
  after_next (p := fun t => t.regs.chSize == 3#32) (by decide +kernel)

theorem witness_CommandsWriteOnlyTheirWriteSet :
    ∃ (s t : State) (r : CmdRecord), s.inflight = some r ∧ exec (decode r.word) s = .next t ∧ writeSet r = (0x4008, 15) := by
  obtain ⟨t, h, -⟩ := after_next (o := exec (decode (encode .emit)) (flying .emit (emitRegs 35 0x3000 3 3) [])) (p := fun _ => true)
    (by decide +kernel)
  exact ⟨_, t, (idle (emitRegs 35 0x3000 3 3) []).latch (encode .emit), rfl, h, by decide +kernel⟩

/-- Memory that differs just below and just above a read set of 8 bytes. -/
theorem witness_CommandsReadOnlyTheirReadSet :
    (flying .sigchk (srcRegs 0x2000 8 0) (memAt 0x2000 iendFile)).readSet .sigchk
        (flying .sigchk (srcRegs 0x2000 8 0) (memAt 0x2000 iendFile)).operands = [(0x2000, 8)] ∧
      (∀ x, 0x2000 ≤ x → x < 0x2000 + 8 →
        Memory.read (memAt 0x1FFF (7 :: iendFile.take 8 ++ [7])) x = Memory.read (memAt 0x2000 iendFile) x) ∧
      (∃ t, exec .sigchk (flying .sigchk (srcRegs 0x2000 8 0) (memAt 0x2000 iendFile)) = .next t ∧ true = true) ∧
      exec .sigchk (dev .sigchk (srcRegs 0x1001 8 0) []) = .refused .deviceFootprint := by
  refine ⟨by decide +kernel, fun x h1 h2 => ?_, after_next (p := fun _ => true) (by decide +kernel),
    refusedWith_iff (by decide +kernel)⟩
  obtain ⟨k, rfl⟩ := Nat.exists_eq_add_of_le h1
  have h : k = 0 ∨ k = 1 ∨ k = 2 ∨ k = 3 ∨ k = 4 ∨ k = 5 ∨ k = 6 ∨ k = 7 := by omega
  rcases h with rfl | rfl | rfl | rfl | rfl | rfl | rfl | rfl <;> decide +kernel

theorem witness_FootprintsStayInTheirBuffers :
    (0x2000, 8) ∈ (flying .sigchk (srcRegs 0x2000 8 0) []).readSet .sigchk (flying .sigchk (srcRegs 0x2000 8 0) []).operands ∧
      (0x2010, 4) ∈ (flying .parse (srcRegs 0x2000 20 8) []).readSet .parse (flying .parse (srcRegs 0x2000 20 8) []).operands ∧
      0 < (writeSet ((flying .emitsig (dstRegs 0x4000 8 0) []).operands)).2 := by decide +kernel

theorem witness_NoWriteChangesACommandMidway :
    ∃ (s t : State) (c : CmdRecord), s.status.busy = true ∧ s.inflight = some c ∧ exec (decode c.word) s = .next t := by
  obtain ⟨t, h, -⟩ := after_next (o := exec (decode (encode .parse)) (flying .parse (srcRegs 0x2000 20 8) (memAt 0x2000 iendFile)))
    (p := fun _ => true) (by decide +kernel)
  exact ⟨_, t, (idle (srcRegs 0x2000 20 8) (memAt 0x2000 iendFile)).latch (encode .parse), rfl, rfl, h⟩

theorem witness_ResetGivesTheResetValues :
    ∃ (s : State) (ts : List Turn) (x : Nat), s.turns = .reset :: ts ∧ s.inWriteSet x = false ∧ s.inflight.isSome = true ∧
      (∀ r, s.inflight = some r → s.onDevice (decode r.word) r = false) :=
  ⟨{ flying .emitsig (dstRegs 0x4000 8 0) [] with turns := [.reset] }, [], 0x4008, rfl, by decide +kernel, rfl,
    fun r h => by cases h; decide +kernel⟩

/-- A write set's last byte and the byte after it; a command with no write set; and a step that is no reset. -/
theorem witness_ResetAbandonsTheCommand :
    (∃ (s : State) (r : CmdRecord) (ts : List Turn), s.turns = .reset :: ts ∧ s.inflight = some r ∧ s.mem.wf ∧
      s.onDevice (decode r.word) r = false ∧ s.inWriteSet 0x4007 = true ∧ s.inWriteSet 0x4008 = false) ∧
    (∃ (s : State) (r : CmdRecord) (ts : List Turn), s.turns = .reset :: ts ∧ s.inflight = some r ∧ s.mem.wf ∧
      s.onDevice (decode r.word) r = false ∧ decode r.word ≠ .emitsig ∧ decode r.word ≠ .emit) ∧
    (∃ (s t : State) (r : CmdRecord), s.Inv ∧ s.inflight = some r ∧ (∀ ts, s.turns ≠ .reset :: ts) ∧ step s = .next t) :=
  ⟨⟨{ flying .emitsig (dstRegs 0x4000 8 0) [] with turns := [.reset] }, _, [], rfl, rfl, by decide +kernel, by decide +kernel,
      by decide +kernel, by decide +kernel⟩,
    ⟨{ flying .crcIF (crcRegs 0x1000 9) [] with turns := [.reset] }, _, [], rfl, rfl, by decide +kernel, by decide +kernel,
      by decide +kernel, by decide +kernel⟩,
    ⟨flying .nop OperandRegs.reset [], _, _, flying_inv _ _ _ nil_wf, rfl, fun _ h => (by cases h), rfl⟩⟩

theorem witness_TableBuildFinishes :
    ∃ s : State, s.Inv ∧ s.turns = [] ∧ s.status.tblRdy = false ∧ s.table.length = 1 :=
  ⟨_, building_inv, rfl, rfl, rfl⟩

theorem witness_TableReadsBack :
    (∃ s : State, s.Inv ∧ s.status.tblRdy = true) ∧ (∃ s : State, s.Inv ∧ s.status.tblRdy = false) :=
  ⟨⟨_, idle_inv OperandRegs.reset [] Platform.reset nil_wf, rfl⟩, ⟨_, building_inv, rfl⟩⟩

/-- Also for SecondCommandIsDropped, IrqFollowsEnableAndDone and RegistersReadBack. -/
theorem witness_CommandIsAccepted : (idle OperandRegs.reset []).status.busy = false ∧ Reg.SRC_BASE ≠ Reg.STATUS := by decide

theorem witness_BusyWritesAreDropped :
    (flying .nop OperandRegs.reset []).status.busy = true ∧ (0x10 ≤ Reg.SRC_BASE.offset ∧ Reg.SRC_BASE.offset ≤ 0x44) ∧
      (0x10 ≤ Reg.CRC_ACC.offset ∧ Reg.CRC_ACC.offset ≤ 0x44) ∧ Reg.STATUS.offset < 0x10 ∧ 0x44 < Reg.CRC_RES.offset := by
  decide

theorem witness_RegistersReadBack :
    (idle OperandRegs.reset []).status.busy = false ∧ Reg.SRC_BASE.isOperand = true ∧ Reg.CRC_ACC.isOperand = true ∧
      Reg.CRC_RES.isOperand = false := by decide

/-- A window at 0x100: its first and last word, the bytes just outside, and the two refused shapes. -/
theorem witness_OnlyAlignedWordAccessesAreServed :
    let s : State := { State.reset with platform := { Platform.reset with regBase := 0x100 } }
    let base := s.platform.regBase.toNat
    (base ≤ 0x100 ∧ 0x100 < base + 0x100 ∧ (0x100 - base) % 4 = 0) ∧ (base ≤ 0x1FC ∧ 0x1FC < base + 0x100) ∧
      0xFF < base ∧ base + 0x100 ≤ 0x200 ∧ (base ≤ 0x1FF ∧ 0x1FF < base + 0x100 ∧ (0x1FF - base) % 4 ≠ 0) := by decide

theorem witness_HostLinesReachTheirRegister :
    ∃ (s : State) (h : HostAgent) (ts : List Turn), s.turns = .agent 0 :: ts ∧ s.agents[0]? = some h ∧
      h.prog[h.pc]? = some (.wr .SRC_LEN 5) ∧ h.prog[h.pc + 1]? = some (.cmd .nop) ∧ h.prog[h.pc + 2]? = some (.rd .STATUS) :=
  ⟨{ idle OperandRegs.reset [] with
      agents := [{ HostAgent.idle with prog := [.wr .SRC_LEN 5, .cmd .nop, .rd .STATUS] }], turns := [.agent 0] },
    _, [], rfl, rfl, rfl, rfl, rfl⟩

theorem witness_IrqFollowsEnableAndDone :
    ∃ (i : Instr) (s t : State), exec i s = .next t ∧ t.irq = true :=
  ⟨.nop, { flying .nop OperandRegs.reset [] with ctrl := ⟨true, false⟩ }, _, rfl, rfl⟩

/-! ### CRC -/

/-- The range that ends at the top of the address space (V17). -/
theorem witness_CrcCommandResult :
    ∃ s : State, s.TableBuilt ∧ s.operands.regs.crcAddr.toNat + s.operands.regs.crcLen.toNat = 2 ^ 32 ∧
      s.Usable s.operands.regs.crcAddr.toNat s.operands.regs.crcLen.toNat :=
  ⟨flying .crcIF (crcRegs 0xFFFFFFF0 0x10) [], rfl, by decide +kernel, by decide +kernel, by decide +kernel⟩

/-- One byte too many; and a range whose last byte does not answer. -/
theorem witness_CrcCommandErrors :
    (∃ s : State, s.operands.regs.crcAddr.toNat + s.operands.regs.crcLen.toNat = 2 ^ 32 + 1) ∧
    (∃ s : State, s.operands.regs.crcAddr.toNat + s.operands.regs.crcLen.toNat ≤ 2 ^ 32 ∧
      s.platform.anyDevice s.operands.regs.crcAddr.toNat s.operands.regs.crcLen.toNat = false ∧
      ∃ j, j < s.operands.regs.crcLen.toNat ∧ s.platform.answers (s.operands.regs.crcAddr.toNat + j) = false) :=
  ⟨⟨flying .crcIF (crcRegs 0xFFFFFFFF 2) [], by decide +kernel⟩,
    ⟨low .crcIF (crcRegs 0x4000 9) [], by decide +kernel, by decide +kernel, 8, by decide +kernel, by decide +kernel⟩⟩

/-- The two ranges of program P4, the last of them at the top of memory. -/
theorem witness_ChainedCrcEqualsWhole :
    ∃ (s : State) (p : Word × Word) (ps : List (Word × Word)), s.Idle ∧ s.Quiet ∧ ps ≠ [] ∧
      (∀ q ∈ p :: ps, q.1.toNat + q.2.toNat ≤ 2 ^ 32 ∧ s.Usable q.1.toNat q.2.toNat) := by
  refine ⟨idle OperandRegs.reset [], (0x5000, 4), [(0xFFFFFFFD, 3)], ⟨rfl, rfl, rfl⟩, ⟨rfl, rfl⟩, by simp, fun q hq => ?_⟩
  simp only [List.mem_cons, List.not_mem_nil, or_false] at hq
  rcases hq with rfl | rfl <;> exact ⟨by decide +kernel, by decide +kernel, by decide +kernel⟩

/-! ### SIGCHK and PARSE -/

/-- 7 bytes need no memory, 8 do. -/
theorem witness_SigchkComparesTheSignature :
    (∃ s : State, s.operands.regs.srcBase.toNat + s.operands.regs.srcLen.toNat ≤ 2 ^ 32 ∧
      s.operands.regs.srcLen.toNat = 7 ∧ s.platform.allAnswer s.operands.regs.srcBase.toNat 1 = false) ∧
    (∃ s : State, s.operands.regs.srcBase.toNat + s.operands.regs.srcLen.toNat = 2 ^ 32 ∧
      s.operands.regs.srcLen.toNat = 8 ∧ s.Usable s.operands.regs.srcBase.toNat 8) :=
  ⟨⟨low .sigchk (srcRegs 0x5000 7 0) [], by decide +kernel, by decide +kernel, by decide +kernel⟩,
    ⟨flying .sigchk (srcRegs 0xFFFFFFF8 8 0) [], by decide +kernel, by decide +kernel, by decide +kernel, by decide +kernel⟩⟩

theorem witness_SigchkErrors :
    (∃ s : State, s.operands.regs.srcBase.toNat + s.operands.regs.srcLen.toNat = 2 ^ 32 + 1) ∧
    (∃ s : State, s.operands.regs.srcBase.toNat + s.operands.regs.srcLen.toNat ≤ 2 ^ 32 ∧ s.operands.regs.srcLen.toNat = 8 ∧
      s.platform.anyDevice s.operands.regs.srcBase.toNat 8 = false ∧
      ∃ j, j < 8 ∧ s.platform.answers (s.operands.regs.srcBase.toNat + j) = false) :=
  ⟨⟨flying .sigchk (srcRegs 0xFFFFFFF9 8 0) [], by decide +kernel⟩,
    ⟨low .sigchk (srcRegs 0x4001 8 0) [], by decide +kernel, by decide +kernel, by decide +kernel, 7, by decide +kernel,
      by decide +kernel⟩⟩

/-- V32 (rem = 7), a cursor past the end (V35), and rem one byte short of 12 + size (V37). -/
theorem witness_ParseStopsOnTruncation :
    remaining 8 15 = 7 ∧ remaining 40 20 = 0 ∧
    (let s := flying .parse (srcRegs 0x2000 20 8) (memAt 0x200B [1]);
      remaining 8 20 = 12 ∧ s.platform.allAnswer 0x2008 8 = true ∧ s.platform.anyDevice 0x2008 8 = false ∧
        be32 (s.engineByte 0x2008) (s.engineByte 0x2009) (s.engineByte 0x200A) (s.engineByte 0x200B) = 1#32) := by
  decide +kernel

/-- V41: a chunk that ends exactly at SRC_LEN, with VERIFY_EN latched as 1. -/
theorem witness_ParseProducesTheChunk :
    ∃ s : State, s.TableBuilt ∧ s.operands.regs.srcBase.toNat + s.operands.regs.srcLen.toNat ≤ 2 ^ 32 ∧
      s.operands.regs.srcCur.toNat + 12 +
        (be32 (s.engineByte 0x2008) (s.engineByte 0x2009) (s.engineByte 0x200A) (s.engineByte 0x200B)).toNat
          = s.operands.regs.srcLen.toNat ∧
      s.Usable 0x2008 8 ∧ s.Usable 0x2010 4 ∧ s.operands.verifyEn = true ∧ s.Usable 0x2010 0 :=
  ⟨State.accept { idle (srcRegs 0x2000 20 8) (memAt 0x2000 iendFile) with ctrl := ⟨false, true⟩ } (encode .parse), rfl,
    by decide +kernel, by decide +kernel, ⟨by decide +kernel, by decide +kernel⟩, ⟨by decide +kernel, by decide +kernel⟩, rfl,
    ⟨rfl, rfl⟩⟩

/-- RANGE by one byte; then no answer for the header's last byte, for the crc field's, and for the payload alone. -/
theorem witness_ParseErrors :
    (flying .parse (srcRegs 0xFFFFFFE1 0x20 8) []).operands.regs.srcBase.toNat + 0x20 = 2 ^ 32 + 1 ∧
    (let p := (low .parse (srcRegs 0x3FF9 20 8) []).platform;
      p.allAnswer 0x4001 8 = false ∧ p.anyDevice 0x4001 8 = false) ∧
    (let s := low .parse (srcRegs 0x3FF5 20 8) [];
      s.platform.allAnswer 0x3FFD 8 = true ∧ s.platform.anyDevice 0x3FFD 8 = false ∧ s.engineByte 0x3FFD = 0 ∧
        s.engineByte 0x4000 = 0 ∧ s.platform.allAnswer 0x4005 4 = false ∧ s.platform.anyDevice 0x4005 4 = false) ∧
    (let s : State := { State.accept { idle (srcRegs 0x2000 21 8) (memAt 0x200B [1]) with ctrl := ⟨false, true⟩ }
        (encode .parse) with platform := { Platform.reset with memory := [⟨0x2000, 16⟩, ⟨0x2011, 4⟩] } };
      s.operands.verifyEn = true ∧ s.engineByte 0x200B = 1#8 ∧ s.platform.allAnswer 0x2008 8 = true ∧
        s.platform.allAnswer 0x2011 4 = true ∧ s.platform.allAnswer 0x2010 1 = false ∧
        s.platform.anyDevice 0x2010 1 = false) := by decide +kernel

theorem witness_VerifyChangesOnlyCrcerr :
    ∃ (s t u : State) (r : CmdRecord),
      exec .parse { s with inflight := some { r with verifyEn := false } } = .next t ∧
      exec .parse { s with inflight := some { r with verifyEn := true } } = .next u ∧
      s.platform.allAnswer r.regs.srcBase.toNat r.regs.srcLen.toNat = true ∧ t.status.errcode = .ok ∧ u.status.errcode = .ok := by
  let s := idle (srcRegs 0x2000 20 8) (memAt 0x2000 iendFile)
  let r := s.latch (encode .parse)
  obtain ⟨t, ht, et⟩ := after_next (o := exec .parse { s with inflight := some { r with verifyEn := false } })
    (p := fun t => decide (t.status.errcode = .ok)) (by decide +kernel)
  obtain ⟨u, hu, eu⟩ := after_next (o := exec .parse { s with inflight := some { r with verifyEn := true } })
    (p := fun t => decide (t.status.errcode = .ok)) (by decide +kernel)
  exact ⟨s, t, u, r, ht, hu, by decide +kernel, of_decide_eq_true et, of_decide_eq_true eu⟩

/-! ### EMITSIG, EMIT and MKCHUNK -/

/-- V51: exactly 8 bytes of room. -/
theorem witness_EmitsigWritesTheSignature :
    ∃ s : State, s.mem.wf ∧ s.operands.regs.dstBase.toNat + s.operands.regs.dstLen.toNat ≤ 2 ^ 32 ∧
      s.operands.regs.dstCur.toNat + 8 = s.operands.regs.dstLen.toNat ∧ s.Usable s.operands.regs.dstAddr 8 :=
  ⟨flying .emitsig (dstRegs 0x4000 8 0) [], by decide +kernel, by decide +kernel, by decide +kernel, by decide +kernel,
    by decide +kernel⟩

/-- V55, V52, V53, and 8 bytes the last of which does not answer. -/
theorem witness_EmitsigErrors :
    0xFFFFFFFC + 8 = 2 ^ 32 + 4 ∧ 7 - 0 < 8 ∧ 20 < 21 ∧
    (∃ s : State, s.operands.regs.dstBase.toNat + s.operands.regs.dstLen.toNat ≤ 2 ^ 32 ∧
      s.operands.regs.dstCur.toNat + 8 ≤ s.operands.regs.dstLen.toNat ∧
      s.platform.anyDevice s.operands.regs.dstAddr 8 = false ∧ s.platform.allAnswer s.operands.regs.dstAddr 8 = false ∧
      s.platform.allAnswer s.operands.regs.dstAddr 7 = true) :=
  ⟨by decide, by decide, by decide, low .emitsig (dstRegs 0x4001 8 0) [], by decide +kernel, by decide +kernel,
    by decide +kernel, by decide +kernel, by decide +kernel⟩

/-- V62 (exact fit, the payload below), V67 (the payload just above), V70 (size 0 on the write start), and a payload that ends
where the write range begins. -/
theorem witness_EmitWritesTheChunk :
    emitCheck (emitRegs 23 0x3000 3 3) = none ∧ emitCheck (emitRegs 35 0x4017 3 3) = none ∧
      emitCheck (emitRegs 20 0x4008 0 0) = none ∧ emitCheck (emitRegs 35 0x4005 3 3) = none ∧
      (∃ s : State, s.mem.wf ∧ s.operands.regs = emitRegs 23 0x3000 3 3 ∧ s.Usable 0x3000 3 ∧ s.Usable 0x4008 15) :=
  ⟨by decide, by decide, by decide, by decide, flying .emit (emitRegs 23 0x3000 3 3) [], by decide +kernel, rfl,
    ⟨by decide +kernel, by decide +kernel⟩, ⟨by decide +kernel, by decide +kernel⟩⟩

/-- One state's registers for each error, at its boundary: the destination's RANGE, the payload's (V69), SIZE (V64), CAPACITY
(V63, and the cursor past the end), OVERLAP at both ends of the write range, and BUS on either range. -/
theorem witness_EmitErrorsInOrder :
    emitCheck { emitRegs 9 0x3000 3 3 with dstBase := 0xFFFFFFF8 } = some .range ∧
    emitCheck (emitRegs 35 0xFFFFFFFE 3 3) = some .range ∧
    emitCheck (emitRegs 35 0x3000 5 3) = some .size ∧
    emitCheck (emitRegs 22 0x3000 3 3) = some .capacity ∧ emitCheck (emitRegs 7 0x3000 3 3) = some .capacity ∧
    emitCheck (emitRegs 35 0x4016 3 3) = some .overlap ∧ emitCheck (emitRegs 35 0x4006 3 3) = some .overlap ∧
    (∃ s : State, emitCheck s.operands.regs = none ∧ s.platform.devices = [] ∧
      s.platform.allAnswer s.operands.regs.dstAddr s.operands.regs.emitLength = false) ∧
    (∃ s : State, emitCheck s.operands.regs = none ∧ s.platform.devices = [] ∧
      s.platform.allAnswer s.operands.regs.chDaddr.toNat s.operands.regs.chSize.toNat = false) :=
  ⟨by decide, by decide, by decide, by decide, by decide, by decide, by decide,
    ⟨low .emit (emitRegs 35 0x3000 3 3) [], by decide +kernel, rfl, by decide +kernel⟩,
    ⟨low .emit { emitRegs 35 0x0FFF 3 3 with dstBase := 0x2000 } [], by decide +kernel, rfl, by decide +kernel⟩⟩

/-- A payload that ends at the top of the address space, and the empty one of V80. -/
theorem witness_MkchunkMakesTheChunk :
    (∃ s : State, s.TableBuilt ∧ s.operands.regs.chDaddr.toNat + s.operands.regs.chDlen.toNat = 2 ^ 32 ∧
      s.Usable s.operands.regs.chDaddr.toNat s.operands.regs.chDlen.toNat) ∧
    (∃ s : State, s.TableBuilt ∧ s.operands.regs.chDlen = 0 ∧ s.Usable s.operands.regs.chDaddr.toNat 0) :=
  ⟨⟨flying .mkchunk (mkRegs 0xFFFFFFFE 2) [], rfl, by decide +kernel, by decide +kernel, by decide +kernel⟩,
    ⟨flying .mkchunk (mkRegs 0 0) [], rfl, rfl, rfl, rfl⟩⟩

theorem witness_MkchunkErrors :
    (∃ s : State, s.operands.regs.chDaddr.toNat + s.operands.regs.chDlen.toNat = 2 ^ 32 + 1) ∧
    (∃ s : State, s.operands.regs.chDaddr.toNat + s.operands.regs.chDlen.toNat ≤ 2 ^ 32 ∧
      s.platform.anyDevice s.operands.regs.chDaddr.toNat s.operands.regs.chDlen.toNat = false ∧
      s.platform.allAnswer s.operands.regs.chDaddr.toNat s.operands.regs.chDlen.toNat = false) :=
  ⟨⟨flying .mkchunk (mkRegs 0xFFFFFFFF 2) [], by decide +kernel⟩,
    ⟨low .mkchunk (mkRegs 0x4007 2) [], by decide +kernel, by decide +kernel, by decide +kernel⟩⟩

/-! ### Memory between the agents -/

/-- The idle state on a platform whose caches are not coherent. -/
def cached : State := { idle OperandRegs.reset [] with platform := { Platform.reset with coherent := false } }

theorem witness_EngineReadsMemoryUnlessRaced :
    (idle OperandRegs.reset []).Quiet ∧
      (cached.raced = [] ∧ cached.inflight = none ∧ cached.platform.coherent = false) ∧
      ((cached.hostStore 0x1000 7).raced = [] ∧ 0x1000 ∉ (cached.hostStore 0x1000 7).contested ∧
        cellsAt ((cached.hostStore 0x1000 7).hostStore 0x1000 8).dirty 0x1000 = [8, 7]) ∧
      (flying .nop OperandRegs.reset []).inflight.isSome = true :=
  ⟨⟨rfl, rfl⟩, ⟨rfl, rfl, rfl⟩, ⟨rfl, by decide, by decide⟩, rfl⟩

/-- The first and the last byte of EMITSIG's write set. -/
theorem witness_RacedWriteSetByteIsFree :
    ∃ (s t : State) (r : CmdRecord), s.mem.wf ∧ s.inflight = some r ∧ s.inWriteSet 0x4000 = true ∧
      s.inWriteSet 0x4007 = true ∧ exec (decode r.word) (s.afterLoad 0x4007) = .next t ∧
      ∃ u, exec (decode r.word) (s.hostStore 0x4000 7) = .next u := by
  obtain ⟨t, h, -⟩ := after_next
    (o := exec (decode (encode .emitsig)) ((flying .emitsig (dstRegs 0x4000 8 0) []).afterLoad 0x4007)) (p := fun _ => true) (by decide +kernel)
  obtain ⟨u, hu, -⟩ := after_next (o := exec (decode (encode .emitsig)) ((flying .emitsig (dstRegs 0x4000 8 0) []).hostStore 0x4000 7))
    (p := fun _ => true) (by decide +kernel)
  exact ⟨flying .emitsig (dstRegs 0x4000 8 0) [], t, (idle (dstRegs 0x4000 8 0) []).latch (encode .emitsig), by decide +kernel, rfl,
    by decide +kernel, by decide +kernel, h, u, hu⟩

/-- An address that answers, one that does not, and one in a device region. -/
theorem witness_AgentsAccessMemoryDirectly :
    ∃ (s : State) (h : HostAgent), s.agents[0]? = some h ∧ s.mem.wf ∧ s.platform.coherent = true ∧
      s.platform.isDevice 0x1000 = false ∧ s.platform.answers 0x1000 = true ∧ s.platform.isDevice 0x4008 = false ∧
      s.platform.answers 0x4008 = false ∧ s.platform.isDevice 0x1008 = true :=
  ⟨onPlatform (idle OperandRegs.reset []) 0x1000 0x3008 [⟨0x1008, 1⟩], HostAgent.idle, rfl, by decide +kernel, rfl,
    by decide +kernel, by decide +kernel, by decide +kernel, by decide +kernel, by decide +kernel⟩

/-- Both kinds of platform, with the range of one byte. -/
theorem witness_CleanedStoresAreVisible :
    (∃ s : State, s.Inv ∧ s.inflight = none ∧ s.platform.coherent = true) ∧
    (∃ s : State, s.Inv ∧ s.inflight = none ∧ s.platform.coherent = false) ∧ (0x1000 ≤ 0x1000 ∧ 0x1000 < 0x1000 + 1) :=
  ⟨⟨_, idle_inv OperandRegs.reset [] Platform.reset nil_wf, rfl, rfl⟩,
    ⟨cached, idle_inv _ _ _ nil_wf, rfl, rfl⟩, by omega⟩

/-- Both kinds of platform; and a store not cleaned, at the last byte of a range. -/
theorem witness_InvalidatedLoadsAreFresh :
    (∃ s : State, s.Inv ∧ s.inflight = none ∧ s.platform.coherent = true) ∧
    (∃ s : State, s.Inv ∧ s.inflight = none ∧ s.platform.coherent = false) ∧
    (0x1001 ∉ (cached.hostStore 0x1001 7).contested ∧ cellsAt (cached.hostStore 0x1001 7).dirty 0x1001 ≠ [] ∧
      0x1000 ≤ 0x1001 ∧ 0x1001 < 0x1000 + 2) :=
  ⟨⟨_, idle_inv OperandRegs.reset [] Platform.reset nil_wf, rfl, rfl⟩, ⟨cached, idle_inv _ _ _ nil_wf, rfl, rfl⟩,
    by decide, by decide, by omega, by omega⟩

/-- The byte that EMITSIG has replaced at the end of its write set may still be seen; then a state to observe it in, with the
interrupt high; and one in which a read of STATUS observes nothing. -/
theorem witness_CompletionMustBeObserved :
    (∃ t, exec .emitsig (flying .emitsig (dstRegs 0x4000 8 0) (memAt 0x4007 [5])) = .next t ∧
      (t.mem.read 0x4007 != 5#8 && t.unseenBy 0 0x4007 == [5#8]) = true) ∧
    (∃ s : State, s.Inv ∧ s.inflight = none ∧ s.platform.coherent = true ∧ s.status.busy = false) ∧
    (∃ s : State, s.inflight = none ∧ s.platform.coherent = true ∧ s.lineHigh 0 = true) ∧
    ((flying .nop OperandRegs.reset []).status.busy = true ∧ (flying .nop OperandRegs.reset []).status.done = false) :=
  ⟨after_next (p := fun t => t.mem.read 0x4007 != 5#8 && t.unseenBy 0 0x4007 == [5#8]) (by decide +kernel),
    ⟨_, idle_inv OperandRegs.reset [] Platform.reset nil_wf, rfl, rfl, rfl⟩,
    ⟨{ idle OperandRegs.reset [] with
        ctrl := ⟨true, false⟩, status := { (idle OperandRegs.reset []).status with done := true } }, rfl, rfl, rfl⟩,
    rfl, rfl⟩

/-- The last byte of a write over a store not cleaned. -/
theorem witness_EngineWriteOverUncleanedStoreIsFree :
    (cached.hostStore 0x1001 7).mem.wf ∧ (cached.hostStore 0x1001 7).raced = [] ∧
      cellsAt (cached.hostStore 0x1001 7).dirty 0x1001 ≠ [] ∧ 0x1000 ≤ 0x1001 ∧ 0x1001 < 0x1000 + [1#8, 2#8].length :=
  ⟨by decide, rfl, by decide, by omega, by decide⟩

/-! ### split and join -/

/-- The buffer of V30, of 20 bytes, with VERIFY_EN = 1. -/
theorem witness_ParseLoopIsSplit :
    ∃ s : State, s.Idle ∧ s.Quiet ∧ s.ctrl.verifyEn = true ∧ s.regs.srcCur = 8 ∧
      s.regs.srcBase.toNat + s.regs.srcLen.toNat ≤ 2 ^ 32 ∧ s.Usable s.regs.srcBase.toNat s.regs.srcLen.toNat ∧
      (splitBytes (s.mem.readBytes s.regs.srcBase.toNat s.regs.srcLen.toNat)).length = 1 :=
  ⟨{ idle (srcRegs 0x2000 20 8) (memAt 0x2000 iendFile) with ctrl := ⟨false, true⟩ }, ⟨rfl, rfl, rfl⟩, ⟨rfl, rfl⟩, rfl, rfl,
    by decide +kernel, ⟨by decide +kernel, by decide +kernel⟩, by decide +kernel⟩

/-- The two chunks of program P3: the payload just above the destination, and an empty payload addressed inside it. -/
theorem witness_EmitLoopIsJoin :
    ∃ (s : State) (cs : List ChunkRegs), s.Idle ∧ s.Quiet ∧ s.mem.wf ∧
      s.regs.dstBase.toNat + s.regs.dstLen.toNat ≤ 2 ^ 32 ∧
      8 + chunksLength (cs.map (ChunkRegs.chunk s.mem)) = s.regs.dstLen.toNat ∧
      s.Usable s.regs.dstBase.toNat (8 + chunksLength (cs.map (ChunkRegs.chunk s.mem))) ∧
      (∀ c ∈ cs, c.daddr.toNat + c.size.toNat ≤ 2 ^ 32 ∧ s.Usable c.daddr.toNat c.size.toNat ∧
        (c.size = 0 ∨ c.daddr.toNat + c.size.toNat ≤ s.regs.dstBase.toNat ∨
          s.regs.dstBase.toNat + (8 + chunksLength (cs.map (ChunkRegs.chunk s.mem))) ≤ c.daddr.toNat)) := by
  refine ⟨idle (dstRegs 0x4000 35 0) (memAt 0x4023 payload),
    [⟨3, 0x74455874, 0x4023, 0xB6A1EA85⟩, ⟨0, 0x49454E44, 0x4010, 0xAE426082⟩], ⟨rfl, rfl, rfl⟩, ⟨rfl, rfl⟩, memAt_wf _ _,
    by decide +kernel, by decide +kernel, ⟨by decide +kernel, by decide +kernel⟩, fun c hc => ?_⟩
  simp only [List.mem_cons, List.not_mem_nil, or_false] at hc
  rcases hc with rfl | rfl <;> exact ⟨by decide +kernel, ⟨by decide +kernel, by decide +kernel⟩, by decide +kernel⟩

/-- The file of V30, rejoined just above itself. -/
theorem witness_SplitThenJoinIsIdentity :
    ∃ s : State, s.Idle ∧ s.Quiet ∧ s.mem.wf ∧ s.ctrl.verifyEn = true ∧ s.regs.srcCur = 8 ∧
      s.regs.srcBase.toNat + s.regs.srcLen.toNat ≤ 2 ^ 32 ∧ s.Usable s.regs.srcBase.toNat s.regs.srcLen.toNat ∧
      s.regs.dstBase.toNat + s.regs.dstLen.toNat ≤ 2 ^ 32 ∧ s.regs.srcLen.toNat = s.regs.dstLen.toNat ∧
      s.Usable s.regs.dstBase.toNat s.regs.srcLen.toNat ∧
      s.regs.srcBase.toNat + s.regs.srcLen.toNat = s.regs.dstBase.toNat ∧
      (s.mem.readBytes s.regs.srcBase.toNat s.regs.srcLen.toNat).take 8 = signature ∧
      8 + chunksLength (splitBytes (s.mem.readBytes s.regs.srcBase.toNat s.regs.srcLen.toNat)) = s.regs.srcLen.toNat :=
  ⟨{ idle { srcRegs 0x2000 20 8 with dstBase := 0x2014, dstLen := 20 } (memAt 0x2000 iendFile) with ctrl := ⟨false, true⟩ },
    ⟨rfl, rfl, rfl⟩, ⟨rfl, rfl⟩,
    memAt_wf _ _, rfl, rfl, by decide +kernel, ⟨by decide +kernel, by decide +kernel⟩, by decide +kernel, by decide +kernel,
    ⟨by decide +kernel, by decide +kernel⟩, by decide +kernel, by decide +kernel, by decide +kernel⟩

/-- A branch with DONE read as 1, and the same one before any read. -/
theorem witness_BranchTestsTheLastStatusRead :
    let h : HostAgent := { HostAgent.idle with prog := [.branchIf .DONE 3, .ack, .label 3], lastStatus := some 2 }
    let s : State := { idle OperandRegs.reset [] with agents := [h, { h with lastStatus := none }], turns := [.agent 0] }
    s.turns = .agent 0 :: [] ∧ s.agents[0]? = some h ∧ h.prog[h.pc]? = some (.branchIf .DONE 3) ∧
      findLabel h.prog 3 = some 2 ∧ StatusField.value .DONE 2 = 1 ∧ StatusField.value .BUSY 2 ≠ 1 ∧
      s.agents[1]? = some { h with lastStatus := none } := by decide

end Sys2Proof.Tests
end

section
/-! Which words are reserved, and how a reserved word completes (30_encoding.md R83, 42_control.md R180). -/

namespace Sys2Proof

/-- The words of the ten commands (R81, R82). -/
def legalWords : List Word :=
  [0x00000000#32, 0x00000001#32, 0x00000101#32, 0x00000201#32, 0x00000301#32, 0x00000002#32, 0x00000003#32,
    0x00000004#32, 0x00000005#32, 0x00000006#32]

theorem not_reserved_of_mem_legalWords :
    ∀ w ∈ legalWords, reservedWord w = false ∧ decode w ≠ .badcmd w := by
  simp only [legalWords, List.forall_mem_cons]
  refine ⟨?_, ?_, ?_, ?_, ?_, ?_, ?_, ?_, ?_, ?_, fun _ h => absurd h List.not_mem_nil⟩ <;> decide

theorem reserved_of_not_mem_legalWords {w : Word} (h : w ∉ legalWords) :
    reservedWord w = true ∧ decode w = .badcmd w := by
  simp only [legalWords, List.mem_cons, List.not_mem_nil, or_false] at h
  have hd := decode_cases w
  tauto

theorem decode_eq_badcmd_iff_not_mem_legalWords (w : Word) : decode w = .badcmd w ↔ w ∉ legalWords :=
  ⟨fun hd hw => (not_reserved_of_mem_legalWords w hw).2 hd, fun hw => (reserved_of_not_mem_legalWords hw).2⟩

theorem reservedWord_iff_decode_eq_badcmd (w : Word) : reservedWord w = true ↔ decode w = .badcmd w := by
  by_cases hw : w ∈ legalWords
  · obtain ⟨hr, hd⟩ := not_reserved_of_mem_legalWords w hw
    simp [hr, hd]
  · obtain ⟨hr, hd⟩ := reserved_of_not_mem_legalWords hw
    simp [hr, hd]

/-- The three conditions of R83. -/
theorem reservedWord_iff (w : Word) :
    reservedWord w = true ↔
      cmdRsv w ≠ 0#22 ∨ 7 ≤ (cmdOp w).toNat ∨ (cmdOp w ≠ 1#8 ∧ (cmdInit w = true ∨ cmdFinal w = true)) := by
  simp only [reservedWord, Bool.or_eq_true, Bool.and_eq_true, bne_iff_ne, decide_eq_true_eq, or_assoc]

end Sys2Proof

namespace Sys2Proof.Machine

/-- t is s with a BADCMD completed: BUSY, DONE and ERRCODE written, all else as in s (R180). -/
def State.CompletedBadcmd (s t : State) : Prop :=
  t.status = { s.status with busy := false, done := true, errcode := .badcmd } ∧ t.regs = s.regs ∧
    t.crcRes = s.crcRes ∧ s.Frame t ∧ s.SameMemory t

theorem exec_badcmd (w : Word) (s : State) : exec (.badcmd w) s = .next (s.raise (.badcmd w) .badcmd) := rfl

theorem State.completedBadcmd_raise (s : State) (w : Word) : s.CompletedBadcmd (s.raise (.badcmd w) .badcmd) :=
  ⟨rfl, rfl, rfl, by simp [State.Frame], fun _ => rfl⟩

/-- What acceptance changes, BUSY, DONE and the record, the completion writes again. -/
theorem State.CompletedBadcmd.of_accept {s t : State} {w : Word} (h : (s.accept w).CompletedBadcmd t) :
    s.CompletedBadcmd t := by
  simpa [State.CompletedBadcmd, State.Frame, State.SameMemory, Status.accepted] using h

theorem State.regWrite_cmd_of_not_busy {s : State} (h : s.status.busy = false) (w : Word) :
    s.regWrite .CMD w = s.accept w := by
  simp [State.regWrite, h]

theorem State.engineStep_accept (s : State) (w : Word) :
    (s.accept w).engineStep = exec (decode w) (s.accept w) := rfl

/-- A reserved word written to CMD with BUSY = 0 is accepted, and the Engine's step completes it (R180). -/
theorem State.engineStep_regWrite_cmd_reserved {s : State} {w : Word} (hd : decode w = .badcmd w)
    (hb : s.status.busy = false) :
    (s.regWrite .CMD w).engineStep = .next ((s.accept w).raise (.badcmd w) .badcmd) := by
  rw [State.regWrite_cmd_of_not_busy hb, State.engineStep_accept, hd, exec_badcmd]

/-- Settles O4: by the ten legal words, on which the three conditions and the decoder agree, and the one completion that
executing BADCMD answers, with an acceptance before it or without. -/
theorem reservedWordsCompleteWithBadcmd : Obligations.ReservedWordsCompleteWithBadcmd := by
  intro w
  refine ⟨(reservedWord_iff w).symm.trans (reservedWord_iff_decode_eq_badcmd w),
    decode_eq_badcmd_iff_not_mem_legalWords w, fun s => ?_, fun s hd hb => ?_⟩
  · exact ⟨_, exec_badcmd w s, s.completedBadcmd_raise w⟩
  · exact ⟨_, State.engineStep_regWrite_cmd_reserved hd hb, ((s.accept w).completedBadcmd_raise w).of_accept⟩

end Sys2Proof.Machine
end

section
/-! The chunk framer: where PARSE stops and the chunk it produces, EMIT's errors in their order, and the chunk MKCHUNK makes
(41_chunk_framer.md). -/

namespace Sys2Proof.Machine

/-! ## PARSE -/

theorem State.parseSize_eq (s : State) :
    s.parseSize = (be32 (s.engineByte s.operands.regs.srcAddr) (s.engineByte (s.operands.regs.srcAddr + 1))
      (s.engineByte (s.operands.regs.srcAddr + 2)) (s.engineByte (s.operands.regs.srcAddr + 3))).toNat :=
  congrArg BitVec.toNat (be32At_engineBytes s s.operands.regs.srcAddr 8 (k := 0) (by decide))

/-- At least n bytes remain exactly when the n bytes from the cursor end inside the source (R126). -/
theorem State.le_parseRem_iff (s : State) {n : Nat} (h : 0 < n) :
    n ≤ s.parseRem ↔ s.operands.regs.srcCur.toNat + n ≤ s.operands.regs.srcLen.toNat := by
  unfold State.parseRem remaining
  split <;> omega

/-- PARSE stops where no header remains (R128). -/
theorem execParse_of_short {s : State} (hr : s.operands.regs.srcBase.toNat + s.operands.regs.srcLen.toNat ≤ 2 ^ 32)
    (h8 : s.parseRem < 8) : execParse s = .next s.parseStop := by
  unfold execParse
  rw [if_pos ((rangeOK_iff _ _).2 hr)]
  exact if_pos h8

/-- PARSE stops where the header's chunk is longer than what remains (R130). -/
theorem execParse_of_truncated {s : State} (hr : s.operands.regs.srcBase.toNat + s.operands.regs.srcLen.toNat ≤ 2 ^ 32)
    (h8 : 8 ≤ s.parseRem) (hu : s.Usable s.operands.regs.srcAddr 8) (ht : s.parseRem < 12 + s.parseSize) :
    execParse s = .next s.parseStop := by
  have hrest : s.parseRem - 8 < s.parseSize + 4 := by omega
  unfold execParse
  rw [if_pos ((rangeOK_iff _ _).2 hr)]
  refine (if_neg (Nat.not_lt.2 h8)).trans ?_
  rw [State.withRead_usable hu]
  exact if_pos hrest

/-- PARSE produces a chunk that fits and whose bytes answer; CRCERR speaks with VERIFY_EN only (R127, R129, R136). -/
theorem execParse_of_chunk {s : State} (hr : s.operands.regs.srcBase.toNat + s.operands.regs.srcLen.toNat ≤ 2 ^ 32)
    (ht : 12 + s.parseSize ≤ s.parseRem) (hu : s.Usable s.operands.regs.srcAddr 8)
    (hc : s.Usable (s.operands.regs.srcAddr + 8 + s.parseSize) 4)
    (hp : s.operands.verifyEn = true → s.Usable (s.operands.regs.srcAddr + 8) s.parseSize) :
    execParse s = .next (s.parseChunk (s.engineBytes s.operands.regs.srcAddr 8) s.parseCrc
      (s.operands.verifyEn && s.parseBad)) := by
  have h8 : ¬ s.parseRem < 8 := by omega
  have hrest : ¬ s.parseRem - 8 < s.parseSize + 4 := by omega
  unfold execParse
  rw [if_pos ((rangeOK_iff _ _).2 hr)]
  refine (if_neg h8).trans ?_
  rw [State.withRead_usable hu]
  refine (if_neg hrest).trans ((State.withRead_usable hc _ _ _).trans ?_)
  cases hv : s.operands.verifyEn with
  | false => rfl
  | true => exact (if_pos rfl).trans (State.withRead_usable (hp hv) _ _ _)

/-- Settles O40: by what PARSE does when no header remains, and when a header is read whose chunk does not fit. -/
theorem parseStopsOnTruncation : Obligations.ParseStopsOnTruncation := by
  intro s o at0 rem size hr h
  have hsize : s.parseSize = size := s.parseSize_eq
  have hrem : s.parseRem = rem := rfl
  have hstop : execParse s = .next s.parseStop := by
    rcases h with h8 | ⟨h8, hu, ht⟩
    · exact execParse_of_short hr h8
    · exact execParse_of_truncated hr h8 hu (by omega)
  exact ⟨s.parseStop, hstop, rfl, rfl, rfl, by simp [State.Frame], fun _ => rfl⟩

/-- Settles O41: by the chunk that PARSE produces; the payload's address and the new cursor do not wrap, since the chunk ends
inside the source range. -/
theorem parseProducesTheChunk : Obligations.ParseProducesTheChunk := by
  intro s hT o at0 size tag c crc hr hfit hu hc hp
  have hsize : s.parseSize = size.toNat := s.parseSize_eq
  have hrem : 12 + s.parseSize ≤ s.parseRem :=
    (s.le_parseRem_iff (by omega)).2 (by rw [hsize, ← Nat.add_assoc]; exact hfit)
  have hcur : o.srcCur.toNat + 12 + size.toNat < 2 ^ 32 := Nat.lt_of_le_of_lt hfit o.srcLen.isLt
  have hdaddr : at0 + 8 < 2 ^ 32 := by omega
  have hbad : s.parseBad = (crc32 fullTable (tag ++ s.engineBytes (at0 + 8) size.toNat) != crc) := by
    rw [← hT]
    rfl
  refine ⟨_, execParse_of_chunk hr hrem hu hc hp, rfl, Nat.mod_eq_of_lt hdaddr, Nat.mod_eq_of_lt hcur,
    (Nat.mod_eq_of_lt hcur).trans_le hfit, ?_, rfl, by simp [State.Frame], fun _ => rfl⟩
  rw [← hbad]
  rfl

/-! ## EMIT -/

section EmitChecks

variable {r : OperandRegs}

theorem emitCheck_of_dst_range (h : 2 ^ 32 < r.dstBase.toNat + r.dstLen.toNat) : emitCheck r = some .range := by
  simp [emitCheck, (rangeOK_eq_false_iff _ _).2 h]

theorem emitCheck_of_payload_range (hd : r.dstBase.toNat + r.dstLen.toNat ≤ 2 ^ 32)
    (h : 2 ^ 32 < r.chDaddr.toNat + r.chSize.toNat) : emitCheck r = some .range := by
  simp [emitCheck, (rangeOK_iff _ _).2 hd, (rangeOK_eq_false_iff _ _).2 h]

theorem emitCheck_of_size_ne (hd : r.dstBase.toNat + r.dstLen.toNat ≤ 2 ^ 32)
    (hp : r.chDaddr.toNat + r.chSize.toNat ≤ 2 ^ 32) (h : r.chSize ≠ r.chDlen) : emitCheck r = some .size := by
  simp [emitCheck, (rangeOK_iff _ _).2 hd, (rangeOK_iff _ _).2 hp, h]

theorem emitCheck_of_not_fits (hd : r.dstBase.toNat + r.dstLen.toNat ≤ 2 ^ 32)
    (hp : r.chDaddr.toNat + r.chSize.toNat ≤ 2 ^ 32) (hs : r.chSize = r.chDlen)
    (h : r.dstLen.toNat < r.dstCur.toNat + r.emitLength) : emitCheck r = some .capacity := by
  have hf : r.fits r.emitLength = false := by
    rw [← Bool.not_eq_true, OperandRegs.fits_iff]
    omega
  simp [emitCheck, (rangeOK_iff _ _).2 hd, (rangeOK_iff _ _).2 hp, hs.symm, hf]

theorem emitCheck_of_overlaps (hd : r.dstBase.toNat + r.dstLen.toNat ≤ 2 ^ 32)
    (hp : r.chDaddr.toNat + r.chSize.toNat ≤ 2 ^ 32) (hs : r.chSize = r.chDlen)
    (hf : r.dstCur.toNat + r.emitLength ≤ r.dstLen.toNat) (h : r.overlaps = true) : emitCheck r = some .overlap := by
  simp [emitCheck, (rangeOK_iff _ _).2 hd, (rangeOK_iff _ _).2 hp, hs.symm, (OperandRegs.fits_iff _ _).2 hf, h]

end EmitChecks

/-- EMIT completes with the code c: no register changes, no byte but with BUS, and none outside the write range (R145, R193). -/
def State.EmitFails (s : State) (c : ErrCode) : Prop :=
  ∃ t, exec .emit s = .next t ∧ t.status.errcode = c ∧ t.regs = s.regs ∧ (c ≠ .bus → s.SameMemory t) ∧
    s.SameMemoryOutside t s.operands.regs.dstAddr s.operands.regs.emitLength

theorem State.emitFails_of_check {s : State} {c : ErrCode} (h : emitCheck s.operands.regs = some c) : s.EmitFails c :=
  ⟨s.raise .emit c, by simp [exec, execEmit, h], rfl, rfl, fun _ _ => rfl, fun _ _ => rfl⟩

theorem State.emitFails_bus {s : State} (hn : emitCheck s.operands.regs = none)
    (hw : s.platform.anyDevice s.operands.regs.dstAddr s.operands.regs.emitLength = false)
    (hp : s.platform.anyDevice s.operands.regs.chDaddr.toNat s.operands.regs.chSize.toNat = false)
    (ha : s.platform.allAnswer s.operands.regs.dstAddr s.operands.regs.emitLength = false ∨
      s.platform.allAnswer s.operands.regs.chDaddr.toNat s.operands.regs.chSize.toNat = false) : s.EmitFails .bus := by
  have he : exec .emit s =
      .next ((s.scramble s.operands.regs.dstAddr s.operands.regs.emitLength).raise .emit .bus) := by
    rcases execEmit_cases s with ⟨c, hc, -⟩ | ⟨-, ⟨hd, -⟩ | ⟨uw, up, -⟩ | ⟨-, -, -, e⟩⟩
    · simp [hn] at hc
    · simp [hw, hp] at hd
    · simp [uw.1, up.1] at ha
    · exact e
  exact ⟨_, he, rfl, rfl, fun h => absurd rfl h, fun _ => s.read_scramble_of_outside _ _⟩

/-- Settles O47: by the check that raises each code, in their order, and the write range that BUS leaves unspecified. -/
theorem emitErrorsInOrder : Obligations.EmitErrorsInOrder := by
  intro s o n failed
  have hn : o.emitLength = n := rfl
  refine ⟨fun h => s.emitFails_of_check (emitCheck_of_dst_range h), fun hd =>
    ⟨fun h => s.emitFails_of_check (emitCheck_of_payload_range hd h), fun hp =>
      ⟨fun h => s.emitFails_of_check (emitCheck_of_size_ne hd hp h), fun hs => ⟨fun h => ?_, fun hf => ⟨fun h => ?_, ?_⟩⟩⟩⟩⟩
  · have hlt : o.dstLen.toNat < o.dstCur.toNat + o.emitLength := by omega
    exact s.emitFails_of_check (emitCheck_of_not_fits hd hp hs hlt)
  · have ho : o.overlaps = true := by simp [OperandRegs.overlaps, hn, h]
    exact s.emitFails_of_check (emitCheck_of_overlaps hd hp hs hf ho)
  · intro h
    exact s.emitFails_bus ((emitCheck_none_iff o).2 ⟨hd, hp, hs, hf, (OperandRegs.overlaps_eq_false_iff o).2 h⟩)

/-! ## MKCHUNK -/

/-- MKCHUNK over a well-formed range that answers (R152). -/
theorem execMkchunk_of_usable {s : State}
    (hr : s.operands.regs.chDaddr.toNat + s.operands.regs.chDlen.toNat ≤ 2 ^ 32)
    (hu : s.Usable s.operands.regs.chDaddr.toNat s.operands.regs.chDlen.toNat) :
    execMkchunk s = .next (s.mkchunkResult
      (s.engineBytes s.operands.regs.chDaddr.toNat s.operands.regs.chDlen.toNat)).finish := by
  unfold execMkchunk
  rw [if_pos ((rangeOK_iff _ _).2 hr), State.withRead_usable hu]

/-- Settles O48: by the results of a MKCHUNK whose data are usable. -/
theorem mkchunkMakesTheChunk : Obligations.MkchunkMakesTheChunk := by
  intro s hT o hr hu
  refine ⟨_, execMkchunk_of_usable hr hu, ?_, rfl, rfl, by simp [State.Frame], fun _ => rfl⟩
  rw [← hT]
  rfl

end Sys2Proof.Machine
end

section
/-! The register port: what a write to each kind of register does, while BUSY = 1 and while it is 0, how STATUS reads back bit
by bit, and NOP (42_control.md R171 to R178, 10_state.md R26). -/

namespace Sys2Proof.Machine

/-! ## STATUS, bit by bit -/

/-- STATUS as a sequence of bits, the lowest outermost; the reserved bit 7 lies just below ERRCODE (R26). -/
theorem Status.toWord_eq_bits (t : Status) :
    t.toWord = BitVec.ofNat 32 (Nat.bit t.busy (Nat.bit t.done (Nat.bit t.ovf (Nat.bit t.tblRdy
      (Nat.bit t.stop (Nat.bit t.sigok (Nat.bit t.crcerr (Nat.bit false t.errcode.code)))))))) := by
  simp only [Status.toWord, Nat.bit_val, Bool.toNat_false]
  congr 1
  omega

/-- The Host's write clears bits 1 and 2 of the word where v has a 1, and no other bit (R178). -/
theorem Status.getLsbD_toWord_hostWrite (t : Status) (v : Word) (j : Nat) :
    (t.hostWrite v).toWord.getLsbD j = (t.toWord.getLsbD j && !((j == 1 || j == 2) && v.getLsbD j)) := by
  simp only [Status.toWord_eq_bits, Status.hostWrite, BitVec.getLsbD_ofNat]
  match j with
  | 0 => simp
  | 1 => simp [Nat.testBit_bit_succ]
  | 2 => simp [Nat.testBit_bit_succ]
  | j + 3 => simp [Nat.testBit_bit_succ]

/-- Settles O24: a write to STATUS touches no other field of the state, and the word read back differs in bits 1 and 2 only. -/
theorem statusWriteClearsDoneAndOvf : Obligations.StatusWriteClearsDoneAndOvf := by
  intro s v
  exact ⟨rfl, fun j _ => s.status.getLsbD_toWord_hostWrite v j⟩

/-! ## A write to CMD with BUSY = 0 -/

/-- Acceptance shows in STATUS alone: TBL_DATA reads TBL_RDY, which stays (R46, R171). -/
theorem State.regRead_accept (s : State) (w : Word) {r : Reg} (hr : r ≠ .STATUS) :
    (s.accept w).regRead r = s.regRead r := by
  cases r with
  | STATUS => exact absurd rfl hr
  | _ => rfl

/-- Settles O22: the write is an acceptance, which writes BUSY, DONE and the record. -/
theorem commandIsAccepted : Obligations.CommandIsAccepted := by
  intro s w hb
  rw [State.regWrite_cmd_of_not_busy hb]
  exact ⟨rfl, rfl, fun _ hr => s.regRead_accept w hr, fun _ => rfl, rfl, rfl, rfl, rfl, rfl⟩

/-! ## Writes that are dropped, take effect or are ignored -/

theorem State.regWrite_cmd_of_busy {s : State} (h : s.status.busy = true) (w : Word) :
    s.regWrite .CMD w = s.dropWrite := by
  simp [State.regWrite, h]

theorem Reg.isOperand_iff (r : Reg) : r.isOperand = true ↔ 0x10 ≤ r.offset ∧ r.offset ≤ 0x44 := by
  simp [Reg.isOperand]

/-- A write to any of the 14 operand registers (R173, R177). -/
theorem State.regWrite_operand {r : Reg} (hr : r.isOperand = true) (s : State) (v : Word) :
    s.regWrite r v = if s.status.busy then s.dropWrite else { s with regs := s.regs.set r v } := by
  cases r <;> simp [Reg.isOperand, Reg.offset] at hr <;> rfl

theorem Reg.offset_lt (r : Reg) : r.offset < 0x54 := by cases r <;> decide

/-- The offsets from 0x54 on are reserved (R22, R47). -/
theorem Reg.atOffset_of_reserved {o : Nat} (h : 0x54 ≤ o) : Reg.atOffset o = none := by
  rw [Reg.atOffset, List.find?_eq_none]
  intro r _
  have hr := r.offset_lt
  simp only [beq_iff_eq]
  omega

theorem State.regWriteAt_of_reserved {o : Nat} (h : 0x54 ≤ o) (s : State) (v : Word) : s.regWriteAt o v = s := by
  simp [State.regWriteAt, Reg.atOffset_of_reserved h]

/-- Settles O23: by the kind of register: CMD and the operands drop the write, CTRL, TBL_IDX and STATUS take it, the read-only
registers and the reserved offsets ignore it. -/
theorem busyWritesAreDropped : Obligations.BusyWritesAreDropped := by
  refine ⟨fun s r v hb hr => ?_, fun s v => ⟨rfl, rfl, rfl⟩, fun s r v hr => ?_, fun s o v h =>
    s.regWriteAt_of_reserved h v⟩
  · rcases hr with rfl | hr
    · exact State.regWrite_cmd_of_busy hb v
    · rw [State.regWrite_operand (r.isOperand_iff.2 hr), if_pos hb]
      rfl
  · rcases hr with rfl | rfl | rfl <;> rfl

/-! ## NOP -/

theorem exec_nop (s : State) : exec .nop s = .next s.finish := rfl

/-- Settles O31: NOP finishes and does nothing else; while BUSY = 1 its word is dropped like any other. -/
theorem nopChangesNothing : Obligations.NopChangesNothing :=
  ⟨fun s => ⟨s.finish, exec_nop s, rfl, rfl, rfl, by simp [State.Frame], fun _ => rfl⟩,
    fun _ hb => State.regWrite_cmd_of_busy hb _⟩

end Sys2Proof.Machine
end

section
/-! Completion with an error and the interrupt output: what a failed command writes, and IRQ as CTRL and STATUS drive it
(60_exceptions.md R193, R197). -/

namespace Sys2Proof.Machine

/-! ## Fail-closed completion -/

/-- t is s with command i completed in an error: no register written but STATUS, in which SIGCHK and PARSE write their result
bits too (R193, R52). -/
def State.FailClosed (i : Instr) (s t : State) : Prop :=
  t.regs = s.regs ∧ t.crcRes = s.crcRes ∧ s.Frame t ∧
    t.status = { s.status with
      busy := false, done := true, errcode := t.status.errcode
      sigok := if i = .sigchk then false else s.status.sigok
      stop := if i = .parse then true else s.status.stop
      crcerr := if i = .parse then false else s.status.crcerr }

theorem State.failClosed_raise (s : State) (i : Instr) (c : ErrCode) : s.FailClosed i (s.raise i c) := by
  refine ⟨rfl, rfl, by simp [State.Frame], ?_⟩
  simp only [State.raise_status, Status.failClosed_eq]
  rfl

/-- A scramble before the completion touches no register (R65). -/
theorem State.failClosed_raise_scramble (s : State) (a n : Nat) (i : Instr) (c : ErrCode) :
    s.FailClosed i ((s.scramble a n).raise i c) :=
  (s.scramble a n).failClosed_raise i c

/-- Everything a command that ends with an error can do: complete with memory as it was, or, for EMITSIG and EMIT with BUS
alone, with their write range scrambled first (R193). -/
theorem exec_error_cases {i : Instr} {s t : State} (h : exec i s = .next t) (he : t.status.errcode ≠ .ok) :
    (∃ c, (c = .bus → i ≠ .emitsig ∧ i ≠ .emit) ∧ t = s.raise i c) ∨
    (∃ n, (i = .emitsig ∧ n = 8 ∨ i = .emit ∧ n = s.operands.regs.emitLength) ∧
      t = (s.scramble s.operands.regs.dstAddr n).raise i .bus) := by
  cases exec_nextCase h with
  | badcmd w => exact .inl ⟨.badcmd, nofun, rfl⟩
  | rangeError => exact .inl ⟨.range, nofun, rfl⟩
  | readError _ _ _ h1 h2 => exact .inl ⟨.bus, fun _ => ⟨h1, h2⟩, rfl⟩
  | emitsigCheck c _ hc => exact .inl ⟨c, fun hb => by simp [hb] at hc, rfl⟩
  | emitCheck c _ hc => exact .inl ⟨c, fun hb => by simp [hb] at hc, rfl⟩
  | emitsigBus => exact .inr ⟨8, .inl ⟨rfl, rfl⟩, rfl⟩
  | emitBus => exact .inr ⟨s.operands.regs.emitLength, .inr ⟨rfl, rfl⟩, rfl⟩
  | nop | crc | sigchk | parseStop | parseChunk | emitsig | emit | mkchunk => exact absurd rfl he

/-- Settles O11: both ways to fail complete fail-closed; the first leaves memory as it was, the second scrambles the write range
and nothing outside it. -/
theorem errorsAreFailClosed : Obligations.ErrorsAreFailClosed := by
  intro i s t h he o
  rcases exec_error_cases h he with ⟨c, hc, rfl⟩ | ⟨n, hn, rfl⟩
  · obtain ⟨hregs, hres, hframe, hstatus⟩ := s.failClosed_raise i c
    exact ⟨hregs, hres, hframe, hstatus, fun _ _ => rfl, fun _ _ _ => rfl, fun _ _ _ => rfl, fun _ _ _ => rfl,
      fun _ hb hi => absurd hi (hc hb).1, fun _ hb hi => absurd hi (hc hb).2⟩
  · obtain ⟨hregs, hres, hframe, hstatus⟩ := s.failClosed_raise_scramble o.dstAddr n i .bus
    have hout : s.SameMemoryOutside ((s.scramble o.dstAddr n).raise i .bus) o.dstAddr n :=
      fun _ => s.read_scramble_of_outside o.dstAddr n
    have hin : s.mem.wf → ∀ k, k < n → ((s.scramble o.dstAddr n).raise i .bus).mem.read (o.dstAddr + k) =
        Config.freeByte s.draws (o.dstAddr + k) :=
      fun hm k hk => State.read_scramble_inside hm o.dstAddr n (by omega) (by omega)
    refine ⟨hregs, hres, hframe, hstatus, fun hb => absurd rfl hb, ?_⟩
    rcases hn with ⟨rfl, rfl⟩ | ⟨rfl, rfl⟩
    · exact ⟨fun hi => absurd rfl hi, fun _ => hout, nofun, fun hm _ _ => hin hm, nofun⟩
    · exact ⟨fun _ hi => absurd rfl hi, nofun, fun _ => hout, nofun, fun hm _ _ => hin hm⟩

/-! ## The interrupt output -/

theorem Ctrl.getLsbD_toWord_zero (c : Ctrl) : c.toWord.getLsbD 0 = c.irqEn := by
  have hbits : c.toWord = BitVec.ofNat 32 (Nat.bit c.irqEn (Nat.bit c.verifyEn 0)) := by
    simp only [Ctrl.toWord, Nat.bit_val]
    congr 1
    omega
  rw [hbits, BitVec.getLsbD_ofNat, Nat.testBit_bit_zero]
  rfl

theorem Status.getLsbD_toWord_one (t : Status) : t.toWord.getLsbD 1 = t.done := by
  rw [Status.toWord_eq_bits, BitVec.getLsbD_ofNat, Nat.testBit_bit_succ, Nat.testBit_bit_zero]
  rfl

theorem State.irq_of_done {s : State} (h : s.status.done = true) : s.irq = s.ctrl.irqEn := by simp [State.irq, h]

theorem State.irq_of_not_done {s : State} (h : s.status.done = false) : s.irq = false := by simp [State.irq, h]

/-- Every next state of a command is a completion, which sets DONE, of a state with the same CTRL (R174). -/
theorem exec_eq_complete {i : Instr} {s t : State} (h : exec i s = .next t) :
    ∃ (u : State) (c : ErrCode), t = u.complete c ∧ u.ctrl = s.ctrl := by
  cases exec_nextCase h <;> exact ⟨_, _, rfl, rfl⟩

/-- Settles O30: by the bits that CTRL and STATUS read as, and what each event does to DONE and IRQ_EN. -/
theorem irqFollowsEnableAndDone : Obligations.IrqFollowsEnableAndDone := by
  refine ⟨fun s => ?_, fun i s t h => ?_, fun s w hb => ?_, fun s => ?_, fun s v => rfl⟩
  · exact (congrArg₂ and s.ctrl.getLsbD_toWord_zero s.status.getLsbD_toWord_one).symm
  · obtain ⟨u, c, rfl, hctrl⟩ := exec_eq_complete h
    exact hctrl ▸ State.irq_of_done rfl
  · rw [State.regWrite_cmd_of_not_busy hb]
    exact State.irq_of_not_done rfl
  · exact State.irq_of_not_done (Bool.and_false _)

end Sys2Proof.Machine
end

section
/-! The reset input: every register's reset value, what an abandoned command leaves in memory, and that nothing else cancels a
command (70_reset_and_hazards.md R220, R222, R223). -/

namespace Sys2Proof.Machine

/-! ## The reset's step -/

/-- A reset in its turn takes place, unless a command in flight has a device in its footprint (R220, R68). -/
theorem step_of_reset_next {s : State} {ts : List Turn} (ht : s.turns = .reset :: ts)
    (hd : ∀ r, s.inflight = some r → s.onDevice (decode r.word) r = false) :
    step s = .next ({ s with turns := ts } : State).resetInput :=
  (step_of_reset ht).trans (State.resetStep_next hd)

/-- Every register reads its reset value (R22, R220). -/
theorem State.regRead_resetInput (s : State) (r : Reg) : s.resetInput.regRead r = resetValue r := by
  cases r with
  | STATUS =>
    have hword : Status.reset.toWord = 0x00000001#32 := by decide
    exact hword
  | CTRL =>
    have hword : State.reset.ctrl.toWord = 0 := by decide
    exact hword
  | _ => rfl

/-! ## Memory after an abandoned command -/

/-- Only EMITSIG and EMIT store anything (R69). -/
theorem writeSetOf_eq_empty {i : Instr} (h1 : i ≠ .emitsig) (h2 : i ≠ .emit) (o : OperandRegs) : writeSetOf i o = (0, 0) := by
  cases i with
  | emitsig => exact absurd rfl h1
  | emit => exact absurd rfl h2
  | _ => rfl

/-- A command other than EMITSIG and EMIT has no address in its write set (R69). -/
theorem State.inWriteSet_eq_false {s : State} {r : CmdRecord} (hr : s.inflight = some r) (h1 : decode r.word ≠ .emitsig)
    (h2 : decode r.word ≠ .emit) (x : Nat) : s.inWriteSet x = false := by
  simp [State.inWriteSet, hr, writeSet, writeSetOf_eq_empty h1 h2, inRange]

theorem State.abandon_of_inflight {s : State} {r : CmdRecord} (hr : s.inflight = some r) :
    s.abandon = s.scramble (writeSet r).1 (writeSet r).2 := by
  simp [State.abandon, hr]

theorem State.abandon_of_idle {s : State} (h : s.inflight = none) : s.abandon = s := by
  simp [State.abandon, h]

/-- Outside the write set of the abandoned command a reset leaves memory alone (R223). -/
theorem State.read_resetInput_of_outside {s : State} {x : Nat} (h : s.inWriteSet x = false) :
    s.resetInput.mem.read x = s.mem.read x := by
  rw [State.resetInput_mem]
  cases hr : s.inflight with
  | none => rw [State.abandon_of_idle hr]
  | some r =>
    rw [← Bool.not_eq_true, State.inWriteSet_iff hr] at h
    rw [State.abandon_of_inflight hr, State.read_scramble_of_outside _ _ _ (by omega)]

/-- In the write set of the abandoned command a reset leaves free bytes (R222). -/
theorem State.read_resetInput_inside {s : State} {x : Nat} (hm : s.mem.wf) (h : s.inWriteSet x = true) :
    s.resetInput.mem.read x = Config.freeByte s.draws x := by
  cases hr : s.inflight with
  | none => simp [State.inWriteSet, hr] at h
  | some r =>
    obtain ⟨hlo, hhi⟩ := (State.inWriteSet_iff hr x).1 h
    rw [State.resetInput_mem, State.abandon_of_inflight hr, State.read_scramble_inside hm _ _ hlo hhi]

/-- Settles O18: by the reset's step, register by register, and the frame of its write to memory. -/
theorem resetGivesTheResetValues : Obligations.ResetGivesTheResetValues := by
  intro s ts ht hd
  have hirq : ({ s with turns := ts } : State).resetInput.irq = false := State.irq_of_not_done rfl
  exact ⟨_, step_of_reset_next ht hd, State.regRead_resetInput _, rfl, rfl, fun _ => rfl, hirq, by simp, by simp,
    fun _ hx => State.read_resetInput_of_outside hx⟩

/-! ## No other step cancels a command -/

/-- While BUSY = 1 no register write touches the record in flight: CMD drops the word (R173). -/
theorem State.regWriteAt_inflight_of_busy {s : State} (hb : s.status.busy = true) (o : Nat) (v : Word) :
    (s.regWriteAt o v).inflight = s.inflight := by
  unfold State.regWriteAt
  split
  · next r _ => cases r <;> simp [State.regWrite, hb]
  · rfl

/-- Settling the Hosts' caches has no effect on the record in flight (R79). -/
theorem State.settle_inflight {s : State} (hm : s.mem.wf) (a n : Nat) (f : Nat → Byte) :
    (s.settle a n f).inflight = s.inflight := by
  rw [State.settle_eq hm]

theorem State.portWriteBy_inflight_of_busy {s t : State} {k addr : Nat} {w : AccessWidth} {v : Word}
    (hb : s.status.busy = true) (h : s.portWriteBy k addr w v = .next t) : t.inflight = s.inflight := by
  unfold State.portWriteBy at h
  split at h <;> cases h
  exact State.regWriteAt_inflight_of_busy hb _ v

theorem State.portReadBy_inflight {s t : State} {k addr : Nat} {w : AccessWidth}
    (h : s.portReadBy k addr w = .next t) : t.inflight = s.inflight := by
  unfold State.portReadBy at h
  split at h <;> cases h
  split <;> simp

theorem State.hostAccess_eq_next {s t u : State} {a : Nat} (h : s.hostAccess a u = .next t) : t = u := by
  rcases s.hostAccess_cases a u with ⟨-, e⟩ | ⟨-, -, e⟩ | ⟨-, -, e⟩ <;> rw [e] at h <;> cases h
  rfl

theorem State.jump_inflight {s t : State} {k l : Nat} {g : HostAgent} (h : s.jump k g l = .next t) :
    t.inflight = s.inflight := by
  rcases s.jump_cases k g l with ⟨p, -, e⟩ | ⟨-, e⟩ <;> rw [e] at h <;> cases h
  rfl

/-- No line of an agent touches the record of a command in flight (R171, R173). -/
theorem State.runLine_inflight_of_busy {s t : State} {k : Nat} {g : HostAgent} {l : HostLine} (hm : s.mem.wf)
    (hb : s.status.busy = true) (h : s.runLine k g l = .next t) : t.inflight = s.inflight := by
  cases l with
  | wr | cmd | ack | portWrite => exact State.portWriteBy_inflight_of_busy hb h
  | rd | portRead => exact State.portReadBy_inflight h
  | b => exact State.jump_inflight h
  | label =>
    cases h
    rfl
  | wait =>
    cases h
    simp [hb]
  | branchIf f l =>
    simp only [State.runLine] at h
    split at h
    · exact State.jump_inflight (s := s.afterTest g) h
    · cases h
      rfl
  | load | store =>
    rw [State.hostAccess_eq_next h]
    rfl
  | clean | invalidate =>
    cases h
    exact State.settle_inflight hm _ _ _
  | waitIrq =>
    cases h
    split <;> rfl

/-- No step of an agent touches the record of a command in flight. -/
theorem State.agentStep_inflight_of_busy {s t : State} {k : Nat} (hm : s.mem.wf) (hb : s.status.busy = true)
    (h : s.agentStep k = .next t) : t.inflight = s.inflight := by
  unfold State.agentStep at h
  split at h
  · cases h
    rfl
  · split at h
    · cases h
      rfl
    · exact State.runLine_inflight_of_busy hm hb h

/-- The Engine's step with a command in flight completes it (R174). -/
theorem State.engineStep_completes {s t : State} {r : CmdRecord} (hr : s.inflight = some r) (h : s.engineStep = .next t) :
    t.inflight = none ∧ t.status.done = true ∧ t.status.busy = false := by
  simp only [State.engineStep, hr] at h
  obtain ⟨u, c, rfl, -⟩ := exec_eq_complete h
  exact ⟨rfl, rfl, rfl⟩

/-- A step that is no reset, with a command in flight: the command stays, or completes (R174, R222). -/
theorem State.Inv.inflight_of_step {s t : State} {r : CmdRecord} (hi : s.Inv) (hr : s.inflight = some r)
    (hn : ∀ ts, s.turns ≠ .reset :: ts) (h : step s = .next t) :
    t.inflight = some r ∨ (t.inflight = none ∧ t.status.done = true ∧ t.status.busy = false) := by
  have hb : s.status.busy = true := hi.busyIff.2 (.inl (by simp [hr]))
  unfold step at h
  split at h
  · simp only [State.defaultStep, hb, if_true] at h
    exact .inr (State.engineStep_completes hr h)
  · next turn ts ht =>
    cases turn with
    | engine => exact .inr (State.engineStep_completes (s := { s with turns := ts }) hr h)
    | agent k => exact .inl ((State.agentStep_inflight_of_busy (s := { s with turns := ts }) hi.memWf hb h).trans hr)
    | reset => exact absurd ht (hn ts)

/-- Settles O19: by what the reset's step leaves in each byte, and by the step lemma for every other turn. -/
theorem resetAbandonsTheCommand : Obligations.ResetAbandonsTheCommand := by
  refine ⟨fun s r ts ht hr hm hd => ?_, fun s t r hi hr hn h => hi.inflight_of_step hr hn h⟩
  have hd' : ∀ q, s.inflight = some q → s.onDevice (decode q.word) q = false := by
    intro q hq
    rwa [Option.some.inj (hq.symm.trans hr)]
  refine ⟨_, step_of_reset_next ht hd', rfl, rfl, rfl, rfl, fun x hx => State.read_resetInput_inside hm hx, fun x hx =>
    State.read_resetInput_of_outside hx, fun h1 h2 x => State.read_resetInput_of_outside (State.inWriteSet_eq_false hr h1 h2 x)⟩

end Sys2Proof.Machine
end

section
/-! Decoding and encoding undo each other on command words and well-formed commands (30_encoding.md R80 to R83, R92). -/

namespace Sys2Proof

/-- A well-formed command is what its word decodes to: each of the ten commands by its word, BADCMD because its word is
reserved. -/
theorem decode_encode {i : Instr} (h : i.wellFormed = true) : decode (encode i) = i := by
  cases i with
  | badcmd w => exact (reservedWord_iff_decode_eq_badcmd w).1 h
  | _ => decide

/-- Settles O2: command by command. -/
theorem decodeOfEncode : Obligations.DecodeOfEncode := fun _ h => decode_encode h

/-- Each of the ten legal words is the word of the command it decodes to. -/
theorem encode_decode_of_mem_legalWords :
    ∀ w ∈ legalWords, encode (decode w) = w ∧ (decode w).wellFormed = true := by
  simp only [legalWords, List.forall_mem_cons]
  refine ⟨?_, ?_, ?_, ?_, ?_, ?_, ?_, ?_, ?_, ?_, fun _ h => absurd h List.not_mem_nil⟩ <;> decide

/-- Settles O3: a legal word is its command's, and a reserved one is kept by BADCMD. -/
theorem encodeOfDecode : Obligations.EncodeOfDecode := by
  intro w
  by_cases hw : w ∈ legalWords
  · exact encode_decode_of_mem_legalWords w hw
  · obtain ⟨hr, hd⟩ := reserved_of_not_mem_legalWords hw
    rw [hd]
    exact ⟨rfl, hr⟩

/-- Settles O1: each legal word is the word of its command, and the other five are reserved. -/
theorem specWordsDecode : Obligations.SpecWordsDecode :=
  ⟨decode_encode (i := .nop) rfl, decode_encode (i := .crc) rfl, decode_encode (i := .crcI) rfl,
    decode_encode (i := .crcF) rfl, decode_encode (i := .crcIF) rfl, decode_encode (i := .sigchk) rfl,
    decode_encode (i := .parse) rfl, decode_encode (i := .emitsig) rfl, decode_encode (i := .emit) rfl,
    decode_encode (i := .mkchunk) rfl, (reservedWord_iff_decode_eq_badcmd _).1 rfl,
    (reservedWord_iff_decode_eq_badcmd _).1 rfl, (reservedWord_iff_decode_eq_badcmd _).1 rfl,
    (reservedWord_iff_decode_eq_badcmd _).1 rfl, (reservedWord_iff_decode_eq_badcmd _).1 rfl⟩

end Sys2Proof
end

section
/-! What the completion of a command writes and what it leaves: the result bits, the registers of each command, and the frame
(10_state.md R52, 30_encoding.md R90). -/

namespace Sys2Proof.Machine

variable {i : Instr} {s t : State}

theorem NextCase.frame (h : NextCase s i t) : s.Frame t := by
  cases h <;> simp [State.Frame]

/-- The STATUS that a command leaves: fail-closed with an error code, or ERRCODE = 0 with the result bits that SIGCHK and PARSE
write (R52). -/
theorem NextCase.status (h : NextCase s i t) :
    (∃ c, c ≠ .ok ∧ (c = .badcmd ↔ ∃ w, i = .badcmd w) ∧ i ≠ .nop ∧ t.status = (s.status.failClosed i).completed c) ∨
    (i ≠ .sigchk ∧ i ≠ .parse ∧ (∀ w, i ≠ .badcmd w) ∧ t.status = s.status.completed .ok) ∨
    (i = .sigchk ∧ ∃ v, t.status = (s.status.withSigok v).completed .ok) ∨
    (i = .parse ∧ ∃ stop bad, t.status = (s.status.withParse stop bad).completed .ok) := by
  cases h with
  | badcmd w => exact .inl ⟨.badcmd, by simp, by simp, by simp, rfl⟩
  | rangeError _ hi hn => exact .inl ⟨.range, by simp, by simp [hi], hn, rfl⟩
  | readError _ hi hn => exact .inl ⟨.bus, by simp, by simp [hi], hn, rfl⟩
  | emitsigCheck c _ hc => rcases hc with rfl | rfl <;> exact .inl ⟨_, by simp, by simp, by simp, rfl⟩
  | emitCheck c _ hc => rcases hc with rfl | rfl | rfl | rfl <;> exact .inl ⟨_, by simp, by simp, by simp, rfl⟩
  | emitsigBus | emitBus => exact .inl ⟨.bus, by simp, by simp, by simp, rfl⟩
  | nop | emitsig | emit | mkchunk => exact .inr (.inl ⟨by simp, by simp, by simp, rfl⟩)
  | crc init final =>
    refine .inr (.inl ⟨?_, ?_, ?_, rfl⟩) <;> cases init <;> cases final <;> simp [crcForm]
  | sigchk v => exact .inr (.inr (.inl ⟨rfl, v, rfl⟩))
  | parseStop => exact .inr (.inr (.inr ⟨rfl, true, false, rfl⟩))
  | parseChunk bad => exact .inr (.inr (.inr ⟨rfl, false, bad, rfl⟩))

/-- Every completion sets DONE and clears BUSY, and leaves OVF and TBL_RDY alone (R174, R52). -/
theorem NextCase.status_flags (h : NextCase s i t) :
    t.status.busy = false ∧ t.status.done = true ∧ t.status.ovf = s.status.ovf ∧ t.status.tblRdy = s.status.tblRdy := by
  rcases h.status with ⟨c, -, -, -, e⟩ | ⟨-, -, -, e⟩ | ⟨-, v, e⟩ | ⟨-, stop, bad, e⟩ <;> rw [e]
  · rw [Status.failClosed_eq]
    exact ⟨rfl, rfl, rfl, rfl⟩
  all_goals exact ⟨rfl, rfl, rfl, rfl⟩

/-- Settles O12: by the four forms of the STATUS that a command leaves. -/
theorem resultBitsHaveTheirWriters : Obligations.ResultBitsHaveTheirWriters := by
  intro i s t h
  have hc := exec_nextCase h
  obtain ⟨hbusy, hdone, hovf, hrdy⟩ := hc.status_flags
  rcases hc.status with ⟨c, hne, hbad, hnop, e⟩ | ⟨hsig, hparse, hbad, e⟩ | ⟨rfl, v, e⟩ | ⟨rfl, stop, bad, e⟩
  · rw [Status.failClosed_eq] at e
    have hcode : t.status.errcode = c := by rw [e]; rfl
    refine ⟨fun hp => ?_, fun hs => ?_, hbusy, hdone, hovf, hrdy, fun hi => absurd hi hnop, fun w hw => ?_, fun hw hb => ?_,
      fun _ => ⟨fun hs => ?_, fun hp => ?_⟩⟩
    · simp [e, hp, Status.completed]
    · simp [e, hs, Status.completed]
    · exact hcode.trans (hbad.2 ⟨w, hw⟩)
    · obtain ⟨w, hi⟩ := hbad.1 (hcode.symm.trans hb)
      exact hw w hi
    · simp [e, hs, Status.completed]
    · simp [e, hp, Status.completed]
  · simp [e, hbad, Status.completed]
  · simp [e, Status.completed, Status.withSigok]
  · simp [e, Status.completed, Status.withParse]

/-- Settles O13: by the registers that each way to complete writes. -/
theorem commandsWriteOnlyTheirRegisters : Obligations.CommandsWriteOnlyTheirRegisters := by
  intro i s t h
  have hc := exec_nextCase h
  refine ⟨hc.frame, ?_⟩
  cases hc with
  | crc init final => cases init <;> cases final <;> simp [crcForm]
  | _ => simp

/-! ## The write set -/

theorem writeSetOf_emitsig {o : OperandRegs} (h : emitsigCheck o = none) : writeSetOf .emitsig o = (o.dstAddr, 8) := by
  simp [writeSetOf, h]

theorem writeSetOf_emit {o : OperandRegs} (h : emitCheck o = none) : writeSetOf .emit o = (o.dstAddr, o.emitLength) := by
  simp [writeSetOf, h]

/-- What a command leaves in memory, and to be seen of it: nothing new where its write set is empty, else a store or a scramble
of its write set (R65, R69). -/
theorem NextCase.memory (h : NextCase s i t) :
    (writeSetOf i s.operands.regs = (0, 0) ∧ t.mem = s.mem ∧ t.unseen = s.unseen) ∨
    (∃ a bs, writeSetOf i s.operands.regs = (a, bs.length) ∧ t.mem = (s.engineStore a bs).mem ∧
      t.unseen = s.unseenAfter a bs.length) ∨
    (∃ a n, writeSetOf i s.operands.regs = (a, n) ∧ t.mem = (s.scramble a n).mem ∧ t.unseen = s.unseenAfter a n) := by
  cases h with
  | emitsig hn => exact .inr (.inl ⟨_, signature, writeSetOf_emitsig hn, rfl, by simp⟩)
  | emit hn => exact .inr (.inl ⟨_, _, by rw [writeSetOf_emit hn]; simp [OperandRegs.emitLength], rfl, by simp⟩)
  | emitsigBus hn => exact .inr (.inr ⟨_, _, writeSetOf_emitsig hn, rfl, by simp⟩)
  | emitBus hn => exact .inr (.inr ⟨_, _, writeSetOf_emit hn, rfl, by simp⟩)
  | emitsigCheck c hc | emitCheck c hc => exact .inl ⟨by simp [writeSetOf, hc], rfl, rfl⟩
  | rangeError _ _ _ h1 h2 | readError _ _ _ h1 h2 => exact .inl ⟨writeSetOf_eq_empty h1 h2 _, rfl, rfl⟩
  | crc init final =>
    exact .inl ⟨writeSetOf_eq_empty (by cases init <;> cases final <;> simp [crcForm])
      (by cases init <;> cases final <;> simp [crcForm]) _, rfl, rfl⟩
  | nop | badcmd | sigchk | parseStop | parseChunk | mkchunk => exact .inl ⟨rfl, rfl, rfl⟩

end Sys2Proof.Machine
end

section
/-! The invariant: it holds after reset, and every step keeps it, the Engine's, the reset's and each line of an agent
(10_state.md sections 3, 5 and 6, 42_control.md section 2, 70_reset_and_hazards.md section 1). -/

namespace Sys2Proof.Machine

/-! ## What the invariant says of an idle and of a busy state -/

theorem State.Inv.busy_of_inflight {s : State} (h : s.Inv) {r : CmdRecord} (hr : s.inflight = some r) :
    s.status.busy = true := h.busyIff.2 (.inl (by simp [hr]))

theorem State.Inv.ready_of_inflight {s : State} (h : s.Inv) {r : CmdRecord} (hr : s.inflight = some r) :
    s.status.tblRdy = true := by
  by_contra hn
  simp [h.buildAlone (Bool.not_eq_true _ ▸ hn)] at hr

theorem State.Inv.of_not_busy {s : State} (h : s.Inv) (hb : s.status.busy = false) :
    s.inflight = none ∧ s.status.tblRdy = true := by
  have := h.busyIff
  cases hi : s.inflight <;> cases hr : s.status.tblRdy <;> simp_all

/-- Settles O7: field by field; the builder is at work on an empty table. -/
theorem resetMeetsInv : Obligations.ResetMeetsInv where
  memWf := ⟨.nil, nofun⟩
  tablePrefix := rfl
  tableSize := Nat.zero_le _
  readyIff := ⟨nofun, nofun⟩
  busyIff := ⟨fun _ => .inr rfl, fun _ => rfl⟩
  buildAlone _ := rfl
  latched := nofun
  busyNotDone _ := rfl
  racedInFlight _ := rfl
  coherentClean _ := ⟨rfl, rfl, rfl⟩

/-! ## The Engine's step -/

theorem State.engineStore_mem_wf {s : State} (h : s.mem.wf) (a : Nat) (bs : List Byte) : (s.engineStore a bs).mem.wf :=
  Memory.writeBytes_wf _ h a

theorem State.scramble_mem_wf {s : State} (h : s.mem.wf) (a n : Nat) : (s.scramble a n).mem.wf :=
  Memory.writeBytes_wf _ h a

theorem NextCase.mem_wf {i : Instr} {s t : State} (h : NextCase s i t) (hm : s.mem.wf) : t.mem.wf := by
  rcases h.memory with ⟨-, e, -⟩ | ⟨a, bs, -, e, -⟩ | ⟨a, n, -, e, -⟩ <;> rw [e]
  · exact hm
  · exact State.engineStore_mem_wf hm a bs
  · exact State.scramble_mem_wf hm a n

/-- The Hosts' caches hold nothing of their own. -/
def State.CachesClean (s : State) : Prop := s.dirty = [] ∧ s.contested = [] ∧ s.stale = []

/-- An Engine write leaves coherent caches clean (R79). -/
theorem State.CachesClean.after_write {s : State} (h : s.CachesClean) (hc : s.platform.coherent = true) (a n : Nat) :
    s.contestedAfter a n = [] ∧ s.staleAfter a n = [] := by
  obtain ⟨hd, hcon, hst⟩ := h
  simp [State.contestedAfter, State.staleAfter, hc, hd, hcon, hst, cellsAt]

theorem NextCase.cachesClean {i : Instr} {s t : State} (h : NextCase s i t) (hs : s.CachesClean)
    (hc : s.platform.coherent = true) : t.CachesClean := by
  cases h with
  | emitsig | emit | emitsigBus | emitBus =>
    exact ⟨hs.1, by simpa using (hs.after_write hc _ _).1, by simpa using (hs.after_write hc _ _).2⟩
  | _ => exact hs

/-- The completion of a command in flight keeps the invariant (R174). -/
theorem State.Inv.exec {s t : State} {r : CmdRecord} {i : Instr} (h : s.Inv) (hr : s.inflight = some r)
    (he : exec i s = .next t) : t.Inv := by
  have hc := exec_nextCase he
  obtain ⟨hbusy, hdone, -, hrdy⟩ := hc.status_flags
  obtain ⟨-, -, htable, hplat, -, -, -, hnone⟩ := hc.frame
  have hraced : t.raced = [] := by cases hc <;> rfl
  have hready := h.ready_of_inflight hr
  exact {
    memWf := hc.mem_wf h.memWf
    tablePrefix := htable ▸ h.tablePrefix
    tableSize := htable ▸ h.tableSize
    readyIff := by rw [hrdy, htable]; exact h.readyIff
    busyIff := by simp [hbusy, hnone, hrdy, hready]
    buildAlone := fun _ => hnone
    latched := fun q hq => by simp [hnone] at hq
    busyNotDone := fun hb => by simp [hbusy] at hb
    racedInFlight := fun _ => hraced
    coherentClean := fun hco => by
      rw [hplat] at hco
      exact hc.cachesClean (h.coherentClean hco) hco }

theorem State.Inv.table_length_lt {s : State} (h : s.Inv) (hr : s.status.tblRdy = false) : s.table.length < 256 :=
  Nat.lt_of_le_of_ne h.tableSize fun e => by simp [h.readyIff.2 e] at hr

/-- A step of the builder adds the entry of R101 that is next; the last one sets TBL_RDY and clears BUSY (R221). -/
theorem State.Inv.builderStep {s : State} (h : s.Inv) (hr : s.status.tblRdy = false) : s.builderStep.Inv := by
  have hlt := h.table_length_lt hr
  have hidle := h.buildAlone hr
  have hprefix : s.table ++ [tableEntry s.table.length] = (List.range (s.table.length + 1)).map tableEntry := by
    rw [List.range_succ, List.map_append, ← h.tablePrefix]
    rfl
  rcases Nat.lt_or_ge (s.table.length + 1) 256 with hl | hl
  · rw [State.builderStep_of_lt hl]
    exact { h with
      tablePrefix := by simpa using hprefix
      tableSize := by simpa using hlt
      readyIff := by simp [hr]; omega }
  · have hlast : s.table.length = 255 := by omega
    rw [State.builderStep_last hlast]
    exact { h with
      tablePrefix := by simpa [hlast] using hprefix
      tableSize := by simp [hlast]
      readyIff := by simp [hlast, Status.built]
      busyIff := by simp [hidle, Status.built]
      buildAlone := fun _ => hidle
      busyNotDone := nofun }

theorem State.Inv.engineStep {s t : State} (h : s.Inv) (he : s.engineStep = .next t) : t.Inv := by
  unfold State.engineStep at he
  split at he
  · next r hr => exact h.exec hr he
  · split at he
    · cases he
      exact h
    · next hn =>
      cases he
      exact h.builderStep (by simpa using hn)

/-! ## The reset input -/

theorem State.abandon_mem_wf {s : State} (h : s.mem.wf) : s.abandon.mem.wf := by
  cases hr : s.inflight with
  | none => rwa [State.abandon_of_idle hr]
  | some r =>
    rw [State.abandon_of_inflight hr]
    exact State.scramble_mem_wf h _ _

theorem State.CachesClean.abandon {s : State} (h : s.CachesClean) (hc : s.platform.coherent = true) :
    s.abandon.CachesClean := by
  cases hr : s.inflight with
  | none => rwa [State.abandon_of_idle hr]
  | some r =>
    rw [State.abandon_of_inflight hr]
    exact ⟨h.1, by simpa using (h.after_write hc _ _).1, by simpa using (h.after_write hc _ _).2⟩

/-- After a reset the registers are those of State.reset; memory and the caches are as an abandoned command leaves them
(R220, R223). -/
theorem State.Inv.resetInput {s : State} (h : s.Inv) : s.resetInput.Inv :=
  { resetMeetsInv with
    memWf := State.abandon_mem_wf h.memWf
    coherentClean := fun hc => by
      have hc' : s.platform.coherent = true := by simpa using hc
      exact State.CachesClean.abandon (h.coherentClean hc') hc' }

theorem State.Inv.resetStep {s t : State} (h : s.Inv) (he : s.resetStep = .next t) : t.Inv := by
  unfold State.resetStep at he
  split at he
  · split at he <;> cases he
    exact h.resetInput
  · cases he
    exact h.resetInput

/-! ## The register port -/

theorem State.Inv.accept {s : State} (h : s.Inv) (hb : s.status.busy = false) (w : Word) : (s.accept w).Inv := by
  obtain ⟨-, hready⟩ := h.of_not_busy hb
  exact { h with
    busyIff := ⟨fun _ => .inl rfl, fun _ => rfl⟩
    buildAlone := fun hn => by simp [Status.accepted, hready] at hn
    latched := fun r hr => by
      cases hr
      rfl
    busyNotDone := fun _ => rfl
    racedInFlight := nofun }

theorem State.Inv.dropWrite {s : State} (h : s.Inv) : s.dropWrite.Inv := { h with }

theorem State.Inv.hostWrite {s : State} (h : s.Inv) (v : Word) :
    ({ s with status := s.status.hostWrite v } : State).Inv :=
  { h with busyNotDone := fun hb => by simp [Status.hostWrite, h.busyNotDone hb] }

/-- With no command in flight an operand register takes any value (R173, R177). -/
theorem State.Inv.setRegs {s : State} (h : s.Inv) (hi : s.inflight = none) (o : OperandRegs) :
    ({ s with regs := o } : State).Inv :=
  { h with latched := fun r hr => by simp [hi] at hr }

theorem State.Inv.regWrite {s : State} (h : s.Inv) (r : Reg) (v : Word) : (s.regWrite r v).Inv := by
  cases r with
  | ID | CRC_RES | TBL_DATA => exact h
  | CTRL | TBL_IDX => exact { h with }
  | STATUS => exact h.hostWrite v
  | CMD =>
    unfold State.regWrite
    cases hb : s.status.busy
    · exact h.accept hb v
    · exact h.dropWrite
  | _ =>
    rw [State.regWrite_operand (by decide)]
    cases hb : s.status.busy
    · exact h.setRegs (h.of_not_busy hb).1 _
    · exact h.dropWrite

theorem State.Inv.regWriteAt {s : State} (h : s.Inv) (o : Nat) (v : Word) : (s.regWriteAt o v).Inv := by
  unfold State.regWriteAt
  split
  · exact h.regWrite _ _
  · exact h

/-! ## The agents' operations -/

theorem State.Inv.updAgent {s : State} (h : s.Inv) (k : Nat) (f : HostAgent → HostAgent) : (s.updAgent k f).Inv := { h with }

theorem State.Inv.observe {s : State} (h : s.Inv) (k : Nat) : (s.observe k).Inv := { h with }

theorem State.Inv.afterTest {s : State} (h : s.Inv) (g : HostAgent) : (s.afterTest g).Inv := { h with }

theorem State.Inv.statusRead {s : State} (h : s.Inv) (k : Nat) : (s.statusRead k).Inv := by
  unfold State.statusRead
  split
  · exact h.observe k
  · exact h

theorem State.raceList_of_inv {s : State} (h : s.Inv) (hi : s.inflight = none) (a : Nat) : s.raceList a = [] :=
  (State.raceList_of_idle hi a).trans (h.racedInFlight hi)

theorem State.Inv.afterLoad {s : State} (h : s.Inv) (a : Nat) : (s.afterLoad a).Inv :=
  { h with
    racedInFlight := fun hi => by
      rw [State.afterLoad_raced, State.raceList_of_inv h hi, h.racedInFlight hi, ite_self] }

theorem State.hostStore_mem_wf {s : State} (h : s.mem.wf) (a : Nat) (v : Byte) : (s.hostStore a v).mem.wf := by
  rw [State.hostStore_mem]
  split
  · exact Memory.write_wf h a v
  · exact h

theorem State.Inv.hostStore {s : State} (h : s.Inv) (a : Nat) (v : Byte) : (s.hostStore a v).Inv :=
  { h with
    memWf := State.hostStore_mem_wf h.memWf a v
    racedInFlight := fun hi => State.raceList_of_inv h hi a
    coherentClean := fun hc => by
      obtain ⟨hd, hcon, hst⟩ := h.coherentClean hc
      have hc' : s.platform.coherent = true := hc
      simp [hc', hd, hcon, hst] }

theorem State.Inv.settle {s : State} (h : s.Inv) (a n : Nat) (f : Nat → Byte) : (s.settle a n f).Inv := by
  obtain ⟨hm, hraced⟩ := State.settle_facts h.memWf a n f
  rw [State.settle_eq h.memWf]
  exact { h with
    memWf := hm
    racedInFlight := fun hi => (hraced hi).trans (h.racedInFlight hi)
    coherentClean := fun hc => by
      obtain ⟨hd, hcon, hst⟩ := h.coherentClean hc
      simp [hd, hcon, hst] }

theorem State.Inv.hostInvalidate {s : State} (h : s.Inv) (k a n : Nat) : (s.hostInvalidate k a n).Inv := by
  have hs := h.settle a n s.dropByte
  have hplat : (s.settle a n s.dropByte).platform = s.platform := by rw [State.settle_eq h.memWf]
  exact { hs with
    coherentClean := fun hc => by
      obtain ⟨hd, hcon, -⟩ := hs.coherentClean hc
      obtain ⟨-, -, hst⟩ := h.coherentClean (hplat ▸ hc)
      exact ⟨hd, hcon, by simp [State.hostInvalidate, hst]⟩ }

/-! ## The lines of an agent -/

theorem State.Inv.portWriteBy {s t : State} {k addr : Nat} {w : AccessWidth} {v : Word} (h : s.Inv)
    (he : s.portWriteBy k addr w v = .next t) : t.Inv := by
  unfold State.portWriteBy at he
  split at he <;> cases he
  exact (h.regWriteAt _ v).updAgent k _

theorem State.Inv.portReadBy {s t : State} {k addr : Nat} {w : AccessWidth} (h : s.Inv)
    (he : s.portReadBy k addr w = .next t) : t.Inv := by
  unfold State.portReadBy at he
  split at he <;> cases he
  split
  · exact (h.statusRead k).updAgent k _
  · exact h.updAgent k _

theorem State.Inv.jump {s t : State} {k l : Nat} {g : HostAgent} (h : s.Inv) (he : s.jump k g l = .next t) : t.Inv := by
  rcases s.jump_cases k g l with ⟨p, -, e⟩ | ⟨-, e⟩ <;> rw [e] at he <;> cases he
  exact h.updAgent k _

theorem State.Inv.runLine {s t : State} {k : Nat} {g : HostAgent} {l : HostLine} (h : s.Inv)
    (he : s.runLine k g l = .next t) : t.Inv := by
  cases l with
  | wr | cmd | ack | portWrite => exact h.portWriteBy he
  | rd | portRead => exact h.portReadBy he
  | b => exact h.jump he
  | label =>
    cases he
    exact h.updAgent k _
  | wait =>
    cases he
    split
    · exact (h.statusRead k).updAgent k _
    · exact ((h.statusRead k).updAgent k _).updAgent k _
  | branchIf f l =>
    simp only [State.runLine] at he
    split at he
    · exact (h.afterTest g).jump he
    · cases he
      exact (h.afterTest g).updAgent k _
  | load a =>
    rw [State.hostAccess_eq_next he]
    exact (h.afterLoad _).updAgent k _
  | store a v =>
    rw [State.hostAccess_eq_next he]
    exact (h.hostStore _ v).updAgent k _
  | clean a n =>
    cases he
    exact (h.settle _ _ _).updAgent k _
  | invalidate a n =>
    cases he
    exact (h.hostInvalidate k _ _).updAgent k _
  | waitIrq line =>
    cases he
    split
    · exact (h.observe k).updAgent k _
    · exact h

theorem State.Inv.agentStep {s t : State} {k : Nat} (h : s.Inv) (he : s.agentStep k = .next t) : t.Inv := by
  unfold State.agentStep at he
  split at he
  · cases he
    exact h
  · split at he
    · cases he
      exact h
    · exact h.runLine he

/-! ## The step -/

theorem State.Inv.withTurns {s : State} (h : s.Inv) (ts : List Turn) : ({ s with turns := ts } : State).Inv := { h with }

theorem State.Inv.runTurn {s t : State} {turn : Turn} (h : s.Inv) (he : s.runTurn turn = .next t) : t.Inv := by
  cases turn with
  | engine => exact h.engineStep he
  | agent k => exact h.agentStep he
  | reset => exact h.resetStep he

theorem State.Inv.defaultStep {s t : State} (h : s.Inv) (he : s.defaultStep = .next t) : t.Inv := by
  unfold State.defaultStep at he
  split at he
  · exact h.engineStep he
  · split at he
    · exact h.agentStep he
    · cases he
      exact h

/-- Settles O6: turn by turn, by what each operation of the Engine, of the reset and of an agent does to the invariant. -/
theorem stepKeepsInv : Obligations.StepKeepsInv := by
  intro s t h he
  unfold step at he
  split at he
  · exact h.defaultStep he
  · next ts _ => exact (h.withTurns ts).runTurn he

end Sys2Proof.Machine
end

section
/-! Which step runs what, and the table the builder leaves (42_control.md section 2, 70_reset_and_hazards.md sections 1 and 4,
40_crc_engine.md section 2). -/

namespace Sys2Proof.Machine

/-! ## The step that runs a command -/

theorem step_of_engine {s : State} {r : CmdRecord} {ts : List Turn} (ht : s.turns = .engine :: ts)
    (hr : s.inflight = some r) : step s = exec (decode r.word) { s with turns := ts } := by
  simp [step, ht, State.runTurn, State.engineStep, hr]

theorem step_of_default_busy {s : State} (ht : s.turns = []) (hb : s.status.busy = true) : step s = s.engineStep := by
  simp [step, ht, State.defaultStep, hb]

theorem State.engineStep_of_inflight {s : State} {r : CmdRecord} (hr : s.inflight = some r) :
    s.engineStep = exec (decode r.word) s := by
  simp [State.engineStep, hr]

/-- Settles O5: by the Engine's turn, named or by default; `withFetchWord` names it and accepts the row's word. -/
theorem stepRunsTheDecodedCommand : Obligations.StepRunsTheDecodedCommand :=
  ⟨fun _ _ _ ht hr => step_of_engine ht hr,
    fun _ _ ht hb hr => (step_of_default_busy ht hb).trans (State.engineStep_of_inflight hr),
    fun s nbits w => step_of_engine (r := s.withTableBuilt.latch (tableWord nbits w)) rfl rfl⟩

/-! ## The table build -/

/-- While the table is not ready the default step is the builder's (R221, R234). -/
theorem State.Inv.step_of_building {s : State} (h : s.Inv) (ht : s.turns = []) (hr : s.status.tblRdy = false) :
    step s = .next s.builderStep := by
  rw [step_of_default_busy ht (h.busyIff.2 (.inr hr))]
  simp [State.engineStep, h.buildAlone hr, hr]

theorem run_succ_of_next {M : Host.Core} {s t : M.State} (h : M.step s = .next t) (k : Nat) :
    M.run (k + 1) s = M.run k t := by
  rw [Host.Core.run, h]

/-- A run of j + k steps is one of j steps and then one of k. -/
theorem run_add_of_next {M : Host.Core} {j : Nat} {s t : M.State} (h : M.run j s = .next t) (k : Nat) :
    M.run (j + k) s = M.run k t := by
  induction j generalizing s with
  | zero =>
    cases h
    rw [Nat.zero_add]
  | succ j ih =>
    rw [Nat.succ_add]
    rw [Host.Core.run] at h ⊢
    split at h
    · exact ih h
    · cases h
    · cases h

/-- The table with n entries, each that of R101, and all else as in s. -/
def State.withEntries (s : State) (n : Nat) : State := { s with table := (List.range n).map tableEntry }

theorem State.Inv.withEntries_self {s : State} (h : s.Inv) : s.withEntries s.table.length = s := by
  rw [State.withEntries, ← h.tablePrefix]

/-- Up to the last entry but one, k steps add k entries and do nothing else (R221). -/
theorem State.Inv.run_building {s : State} (h : s.Inv) (ht : s.turns = []) (hr : s.status.tblRdy = false) {k : Nat}
    (hk : s.table.length + k < 256) : Host.Core.run Sys2Proof.core k s = .next (s.withEntries (s.table.length + k)) := by
  induction k generalizing s with
  | zero => exact congrArg _ h.withEntries_self.symm
  | succ k ih =>
    have hstep : step s = .next s.builderStep := h.step_of_building ht hr
    have hb := h.builderStep hr
    have hs : s.builderStep = { s with table := s.table ++ [tableEntry s.table.length] } :=
      State.builderStep_of_lt (by omega)
    have hlen : s.builderStep.table.length = s.table.length + 1 := by simp [hs]
    have hrest : Host.Core.run Sys2Proof.core k s.builderStep = .next (s.withEntries (s.table.length + (k + 1))) := by
      rw [ih hb (by simp [ht]) (by simp [hs, hr]) (by omega), hlen, Nat.add_right_comm, Nat.add_assoc, hs]
      rfl
    exact (run_succ_of_next (M := Sys2Proof.core) hstep k).trans hrest

/-- The step of the last entry completes the build (R221, R30). -/
theorem State.builderStep_withEntries_last (s : State) :
    (s.withEntries 255).builderStep =
      { s with table := (List.range 256).map tableEntry, status := { s.status with busy := false, tblRdy := true } } := by
  rw [State.builderStep_last (by simp [State.withEntries]), List.range_succ, List.map_append]
  rfl

/-- Settles O20: by the run up to the last entry but one, and the step of the last. -/
theorem tableBuildFinishes : Obligations.TableBuildFinishes := by
  intro s h ht hr
  have hlt := h.table_length_lt hr
  refine ⟨fun k hk => ⟨_, h.run_building ht hr (by omega), rfl, by simp [State.withEntries]⟩, ?_⟩
  have hrun := h.run_building ht hr (k := 255 - s.table.length) (by omega)
  rw [show s.table.length + (255 - s.table.length) = 255 by omega] at hrun
  have hbusy : (s.withEntries 255).status.busy = true := h.busyIff.2 (.inr hr)
  have hlast : step (s.withEntries 255) = .next (s.withEntries 255).builderStep := by
    rw [step_of_default_busy (s := s.withEntries 255) ht hbusy]
    simp [State.engineStep, State.withEntries, h.buildAlone hr, hr]
  rw [show 256 - s.table.length = 255 - s.table.length + 1 by omega, run_add_of_next hrun 1,
    ← State.builderStep_withEntries_last s]
  exact run_succ_of_next (M := Sys2Proof.core) hlast 0

theorem State.Inv.table_of_ready {s : State} (h : s.Inv) (hr : s.status.tblRdy = true) : s.table = fullTable := by
  rw [h.tablePrefix, h.readyIff.1 hr]
  rfl

/-- Settles O21: the finished table, read at the low 8 bits of the word written. -/
theorem tableReadsBack : Obligations.TableReadsBack := by
  intro s h
  refine ⟨fun hr v => ?_, fun hr => ?_, fun v => ?_⟩
  · have hidx : (v.setWidth 8).toNat = v.toNat % 256 := BitVec.toNat_setWidth 8 v
    have hdata : (s.regWrite .TBL_IDX v).regRead .TBL_DATA = tableAt s.table (v.setWidth 8).toNat := by
      simp [State.regWrite, State.regRead, State.tblData, hr]
    rw [hdata, hidx, h.table_of_ready hr, tableAt_fullTable (Nat.mod_lt _ (by decide))]
  · simp [State.regRead, State.tblData, hr]
  · apply BitVec.eq_of_toNat_eq
    simp [State.regWrite, State.regRead, BitVec.toNat_setWidth]

end Sys2Proof.Machine
end

section
/-! The registers as they read: STATUS field by field, what a write changes of what is read, and which accesses of an agent are
served (10_state.md section 3, 42_control.md sections 1 and 3). -/

namespace Sys2Proof.Machine

/-! ## STATUS and CTRL as words -/

/-- STATUS is 8 bits of flags and, above them, the code (R26). -/
theorem Status.toNat_toWord (t : Status) : ∃ low, low < 256 ∧ t.toWord.toNat = low + t.errcode.code * 256 ∧
    t.errcode.code < 16 := by
  have hcode : t.errcode.code < 16 := by cases t.errcode <;> decide
  have h0 := Bool.toNat_lt t.busy
  have h1 := Bool.toNat_lt t.done
  have h2 := Bool.toNat_lt t.ovf
  have h3 := Bool.toNat_lt t.tblRdy
  have h4 := Bool.toNat_lt t.stop
  have h5 := Bool.toNat_lt t.sigok
  have h6 := Bool.toNat_lt t.crcerr
  refine ⟨t.busy.toNat * 2 ^ 0 + t.done.toNat * 2 ^ 1 + t.ovf.toNat * 2 ^ 2 + t.tblRdy.toNat * 2 ^ 3 + t.stop.toNat * 2 ^ 4
    + t.sigok.toNat * 2 ^ 5 + t.crcerr.toNat * 2 ^ 6, by omega, ?_, hcode⟩
  rw [Status.toWord, BitVec.toNat_ofNat]
  omega

/-- Settles O26: the flags bit by bit, the code and the zeros above it by division. -/
theorem statusReadsAsItsFields : Obligations.StatusReadsAsItsFields := by
  intro s
  obtain ⟨low, hlow, hw, hcode⟩ := s.status.toNat_toWord
  have hbits := s.status.toWord_eq_bits
  simp only [State.regRead]
  have hfield : (s.status.toWord.extractLsb' 8 4).toNat = s.status.errcode.code := by
    rw [BitVec.extractLsb'_toNat, hw, Nat.shiftRight_eq_div_pow]
    omega
  have hzero : s.status.toWord.extractLsb' 12 20 = 0#20 := by
    apply BitVec.eq_of_toNat_eq
    rw [BitVec.extractLsb'_toNat, hw, Nat.shiftRight_eq_div_pow, BitVec.toNat_ofNat]
    omega
  refine ⟨?_, ?_, ?_, ?_, ?_, ?_, ?_, ?_, hfield.trans ?_, hzero⟩
  case refine_9 => cases s.status.errcode <;> rfl
  all_goals
    rw [hbits, BitVec.getLsbD_ofNat]
    simp [Nat.testBit_bit_succ]

/-- CTRL keeps bits 0 and 1 of the word written (R24, R177). -/
theorem Ctrl.toWord_ofWord (v : Word) : (Ctrl.ofWord v).toWord = v &&& 3#32 := by
  have hand : v.toNat &&& 3 = v.toNat % 4 := Nat.and_two_pow_sub_one_eq_mod v.toNat 2
  have h0 : (v.getLsbD 0).toNat = v.toNat / 2 ^ 0 % 2 := Nat.toNat_testBit v.toNat 0
  have h1 : (v.getLsbD 1).toNat = v.toNat / 2 ^ 1 % 2 := Nat.toNat_testBit v.toNat 1
  apply BitVec.eq_of_toNat_eq
  rw [BitVec.toNat_and, Ctrl.toWord, BitVec.toNat_ofNat]
  change _ = v.toNat &&& 3
  simp only [Ctrl.ofWord]
  omega

/-! ## What a write changes of what is read -/

theorem State.regRead_operand {r : Reg} (hr : r.isOperand = true) (s : State) : s.regRead r = s.regs.get r := by
  cases r <;> simp [Reg.isOperand, Reg.offset] at hr <;> rfl

/-- A register that is no operand does not read the operands. -/
theorem State.regRead_withRegs {q : Reg} (hq : q.isOperand = false) (s : State) (o : OperandRegs) :
    ({ s with regs := o } : State).regRead q = s.regRead q := by
  cases q <;> simp [Reg.isOperand, Reg.offset] at hq <;> rfl

theorem OperandRegs.get_set_self {r : Reg} (hr : r.isOperand = true) (o : OperandRegs) (v : Word) : (o.set r v).get r = v := by
  cases r <;> simp [Reg.isOperand, Reg.offset] at hr <;> rfl

theorem OperandRegs.get_set_ne {r q : Reg} (h : q ≠ r) (o : OperandRegs) (v : Word) : (o.set r v).get q = o.get q := by
  cases r <;> cases q <;> simp [OperandRegs.set, OperandRegs.get] at h ⊢

theorem State.regRead_setReg_ne {r q : Reg} (h : q ≠ r) (s : State) (v : Word) :
    ({ s with regs := s.regs.set r v } : State).regRead q = s.regRead q := by
  cases hq : q.isOperand
  · exact s.regRead_withRegs hq _
  · rw [State.regRead_operand hq, State.regRead_operand hq]
    exact OperandRegs.get_set_ne h _ _

theorem State.regRead_withCtrl {q : Reg} (h : q ≠ .CTRL) (s : State) (c : Ctrl) :
    ({ s with ctrl := c } : State).regRead q = s.regRead q := by
  cases q with
  | CTRL => exact absurd rfl h
  | _ => rfl

/-- Settles O25: the register written is the one that changes. -/
theorem registersReadBack : Obligations.RegistersReadBack := by
  intro s v
  refine ⟨fun r hb hr => ?_, Ctrl.toWord_ofWord v, fun q hq => s.regRead_withCtrl hq _, rfl, rfl, fun o ho => ?_⟩
  · rw [State.regWrite_operand hr, hb]
    exact ⟨(State.regRead_operand hr _).trans (OperandRegs.get_set_self hr _ v), fun q hq => s.regRead_setReg_ne hq v,
      fun _ => rfl⟩
  · simp [State.regReadAt, Reg.atOffset_of_reserved ho]

/-- Settles O29: after the acceptance BUSY = 1, so the second write is dropped. -/
theorem secondCommandIsDropped : Obligations.SecondCommandIsDropped := by
  intro s v w hb
  rw [State.regWrite_cmd_of_not_busy hb]
  exact State.regWrite_cmd_of_busy (s := s.accept v) rfl w

/-! ## Which accesses are served -/

section PortOffset

variable {base : Word} {addr : Nat} {w : AccessWidth}

theorem portOffset_of_outside (h : addr < base.toNat ∨ base.toNat + 0x100 ≤ addr) :
    portOffset base addr w = .error .outsideWindow := by
  unfold portOffset
  rcases h with h | h
  · rw [if_pos h]
  · rw [if_neg (by omega), if_pos h]

/-- Inside the window the width and the alignment decide (R179). -/
theorem portOffset_of_inside (h1 : base.toNat ≤ addr) (h2 : addr < base.toNat + 0x100) :
    portOffset base addr w =
      if w = .word then
        if (addr - base.toNat) % 4 = 0 then .ok (addr - base.toNat) else .error .misalignedAccess
      else .error .notWordAccess := by
  unfold portOffset
  rw [if_neg (by omega), if_neg (by omega)]
  cases w <;> rfl

end PortOffset

theorem State.port_refused {s : State} {addr : Nat} {w : AccessWidth} {e : Refusal}
    (h : portOffset s.platform.regBase addr w = .error e) (k : Nat) (v : Word) :
    s.portReadBy k addr w = .refused e ∧ s.portWriteBy k addr w v = .refused e := by
  simp [State.portReadBy, State.portWriteBy, h]

/-- What a read of the register at an offset observes: a completion, where STATUS is read with BUSY = 0 or DONE = 1 (R74). -/
def State.observedAt (s : State) (k o : Nat) : State :=
  if o = 0x0C ∧ (s.status.busy = false ∨ s.status.done = true) then s.observe k else s

theorem State.observedAt_eq (s : State) (k o : Nat) :
    (if o = Reg.STATUS.offset then s.statusRead k else s) = s.observedAt k o := by
  have hoff : Reg.STATUS.offset = 0x0C := rfl
  by_cases ho : o = 0x0C <;> simp [State.observedAt, State.statusRead, hoff, ho]

/-- A served access: the read and the write that reach an offset of the window (R170). -/
theorem State.port_served {s : State} {addr o : Nat} {w : AccessWidth}
    (h : portOffset s.platform.regBase addr w = .ok o) (k : Nat) (v : Word) :
    s.portReadBy k addr w =
      .next ((s.observedAt k o).updAgent k (fun g => (g.gotReg o (s.regReadAt o)).advance)) ∧
    s.portWriteBy k addr w v = .next ((s.regWriteAt o v).updAgent k HostAgent.advance) := by
  simp [State.portReadBy, State.portWriteBy, h, State.observedAt_eq]

/-- Settles O27: by the offset that an access reaches, or the name of its refusal. -/
theorem onlyAlignedWordAccessesAreServed : Obligations.OnlyAlignedWordAccessesAreServed := by
  intro s k addr w v base
  refine ⟨fun ⟨h1, h2, hw, h4⟩ => ?_, fun h => State.port_refused (portOffset_of_outside h) k v, fun h1 h2 hw => ?_,
    fun h1 h2 hw h4 => ?_⟩
  · exact State.port_served (by rw [portOffset_of_inside h1 h2, if_pos hw, if_pos h4]) k v
  · exact State.port_refused (by rw [portOffset_of_inside h1 h2, if_neg hw]) k v
  · exact State.port_refused (by rw [portOffset_of_inside h1 h2, if_pos hw, if_neg h4]) k v

/-! ## The Host's lines -/

/-- On its turn an agent does its line. -/
theorem step_of_agent {s : State} {k : Nat} {h : HostAgent} {l : HostLine} {ts : List Turn} (ht : s.turns = .agent k :: ts)
    (hk : s.agents[k]? = some h) (hl : h.prog[h.pc]? = some l) :
    step s = State.runLine { s with turns := ts } k h l := by
  simp [step, ht, State.runTurn, State.agentStep, hk, HostAgent.line, hl]

theorem State.regReadAt_offset (s : State) (r : Reg) : s.regReadAt r.offset = s.regRead r := by
  simp [State.regReadAt, Reg.atOffset_offset]

theorem State.regWriteAt_offset (s : State) (r : Reg) (v : Word) : s.regWriteAt r.offset v = s.regWrite r v := by
  simp [State.regWriteAt, Reg.atOffset_offset]

theorem Reg.offset_eq_status_iff (r : Reg) : r.offset = 0x0C ↔ r = .STATUS := by cases r <;> decide

theorem State.portWriteBy_regAddr (s : State) (k : Nat) (r : Reg) (v : Word) :
    s.portWriteBy k (s.regAddr r) .word v = .next ((s.regWrite r v).updAgent k HostAgent.advance) := by
  rw [← State.regWriteAt_offset]
  exact (State.port_served (portOffset_reg s.platform.regBase r) k v).2

theorem State.portReadBy_regAddr (s : State) (k : Nat) (r : Reg) :
    s.portReadBy k (s.regAddr r) .word = .next ((s.observedAt k r.offset).updAgent k
      (fun g => (g.gotReg r.offset (s.regRead r)).advance)) := by
  rw [← State.regReadAt_offset]
  exact (State.port_served (portOffset_reg s.platform.regBase r) k 0).1

@[simp] theorem State.observedAt_agents (s : State) (k o : Nat) : (s.observedAt k o).agents = s.agents := by
  unfold State.observedAt
  split <;> rfl

/-- Agent k is changed by f, where it is there. -/
theorem State.updAgent_agents_self {s : State} {k : Nat} {h : HostAgent} (hk : s.agents[k]? = some h)
    (f : HostAgent → HostAgent) : (s.updAgent k f).agents[k]? = some (f h) := by
  simp [hk]

/-- Settles O28: each line is a port access at its register's address, whose offset names that register. -/
theorem hostLinesReachTheirRegister : Obligations.HostLinesReachTheirRegister := by
  intro s k h ts ht hk u
  refine ⟨fun r v hl => ?_, fun i hl => ?_, fun r hl => ?_⟩
  · exact (step_of_agent ht hk hl).trans (u.portWriteBy_regAddr k r v)
  · exact (step_of_agent ht hk hl).trans (u.portWriteBy_regAddr k .CMD (encode i))
  · have hseen : u.observedAt k r.offset =
        if r = .STATUS ∧ (s.status.busy = false ∨ s.status.done = true) then u.observe k else u := by
      simp only [State.observedAt, Reg.offset_eq_status_iff]
      rfl
    have hk' : (u.observedAt k r.offset).agents[k]? = some h := by simpa using hk
    exact ⟨_, _, (step_of_agent ht hk hl).trans (u.portReadBy_regAddr k r), by rw [hseen]; rfl,
      State.updAgent_agents_self hk' _, rfl, rfl⟩

/-- Agents but k are as before. -/
theorem State.updAgent_agents_ne (s : State) {j k : Nat} (h : j ≠ k) (f : HostAgent → HostAgent) :
    (s.updAgent k f).agents[j]? = s.agents[j]? := by
  simp [Ne.symm h]

/-- A `bif` to a label of the program: the agent goes on, at the label or at the next line (R93). -/
theorem State.runLine_branchIf {s : State} {k l p : Nat} {h : HostAgent} (f : StatusField)
    (hp : findLabel h.prog l = some p) :
    s.runLine k h (.branchIf f l) = .next ((s.afterTest h).updAgent k
      (if f.value (s.testedStatus h) = 1 then fun g => { g with pc := p } else HostAgent.advance)) := by
  simp only [State.runLine, State.jump, hp]
  split <;> rfl

/-- Settles O60: by the word that is tested, the last STATUS value read or a free one. -/
theorem branchTestsTheLastStatusRead : Obligations.BranchTestsTheLastStatusRead := by
  intro s k h f l p ts ht hk hl hp
  let u : State := { s with turns := ts }
  let q := if f.value (u.testedStatus h) = 1 then p else h.pc + 1
  have hk' : (u.afterTest h).agents[k]? = some h := hk
  refine ⟨_, q, (step_of_agent ht hk hl).trans (State.runLine_branchIf f hp), rfl, ?_, fun j hj => ?_, fun w hw => ?_,
    fun _ => ?_⟩
  · rw [State.updAgent_agents_self hk']
    by_cases hv : f.value (u.testedStatus h) = 1 <;> simp [u, q, hv, HostAgent.advance]
  · exact State.updAgent_agents_ne _ hj _
  · obtain ⟨htest, hafter⟩ := State.test_of_some hw u
    exact ⟨by simp [q, htest], by rw [State.updAgent_draws, hafter]⟩
  · by_cases hv : f.value (u.testedStatus h) = 1 <;> simp [q, hv]

end Sys2Proof.Machine
end

section
/-! Where a command stops and what it touches: refused exactly on devices of its footprint, its writes inside its write set, its
results a function of its operands and its read set (20_memory.md section 3, 42_control.md section 2, 60_exceptions.md). -/

namespace Sys2Proof.Machine

/-! ## Footprints -/

@[simp] theorem Platform.anyDevice_zero (p : Platform) (a : Nat) : p.anyDevice a 0 = false := rfl

theorem State.onDevice_iff (s : State) (i : Instr) (r : CmdRecord) :
    s.onDevice i r = true ↔ ∃ p ∈ s.footprint i r, s.platform.anyDevice p.1 p.2 = true := by
  simp [State.onDevice]

theorem State.onDevice_of_mem_readSet {s : State} {i : Instr} {r : CmdRecord} {p : Nat × Nat} (hp : p ∈ s.readSet i r)
    (hd : s.platform.anyDevice p.1 p.2 = true) : s.onDevice i r = true :=
  (s.onDevice_iff i r).2 ⟨p, List.mem_append_left _ hp, hd⟩

theorem State.onDevice_of_writeSet {s : State} {i : Instr} {r : CmdRecord}
    (hd : s.platform.anyDevice (writeSetOf i r.regs).1 (writeSetOf i r.regs).2 = true) : s.onDevice i r = true :=
  (s.onDevice_iff i r).2 ⟨_, List.mem_append_right _ (List.mem_singleton.2 rfl), hd⟩

theorem State.onDevice_of_no_devices {s : State} (h : s.platform.devices = []) (i : Instr) (r : CmdRecord) :
    s.onDevice i r = false := by
  simp [State.onDevice, Platform.anyDevice_of_no_devices h]

/-- PARSE's read set for the operands it was given, in the terms of its own checks (R69; log 12). -/
theorem State.parseReadSet_operands (s : State) :
    s.parseReadSet s.operands =
      if !rangeOK s.operands.regs.srcBase.toNat s.operands.regs.srcLen.toNat then []
      else if s.parseRem < 8 then []
      else if !s.platform.allAnswer s.operands.regs.srcAddr 8 then [(s.operands.regs.srcAddr, 8)]
      else if s.parseRem - 8 < s.parseSize + 4 then [(s.operands.regs.srcAddr, 8)]
      else if s.operands.verifyEn && s.platform.allAnswer (s.operands.regs.srcAddr + 8 + s.parseSize) 4 then
        [(s.operands.regs.srcAddr, 8), (s.operands.regs.srcAddr + 8 + s.parseSize, 4),
          (s.operands.regs.srcAddr + 8, s.parseSize)]
      else [(s.operands.regs.srcAddr, 8), (s.operands.regs.srcAddr + 8 + s.parseSize, 4)] := rfl

section ParseReads

variable {s : State}

/-- The header is read where 8 bytes remain. -/
theorem State.header_mem_parseReadSet (hr : rangeOK s.operands.regs.srcBase.toNat s.operands.regs.srcLen.toNat = true)
    (h8 : 8 ≤ s.parseRem) : (s.operands.regs.srcAddr, 8) ∈ s.parseReadSet s.operands := by
  rw [State.parseReadSet_operands, hr, if_neg (by simp), if_neg (Nat.not_lt.2 h8)]
  split_ifs <;> simp

/-- The crc field is read where the header answers and the chunk fits. -/
theorem State.crc_mem_parseReadSet (hr : rangeOK s.operands.regs.srcBase.toNat s.operands.regs.srcLen.toNat = true)
    (hu : s.Usable s.operands.regs.srcAddr 8) (ht : s.parseSize + 12 ≤ s.parseRem) :
    (s.operands.regs.srcAddr + 8 + s.parseSize, 4) ∈ s.parseReadSet s.operands := by
  rw [State.parseReadSet_operands, hr, if_neg (by simp), if_neg (by omega), hu.1, if_neg (by simp), if_neg (by omega)]
  split_ifs <;> simp

/-- The payload is read where the crc field answers too, with VERIFY_EN. -/
theorem State.payload_mem_parseReadSet (hr : rangeOK s.operands.regs.srcBase.toNat s.operands.regs.srcLen.toNat = true)
    (hu : s.Usable s.operands.regs.srcAddr 8) (ht : s.parseSize + 12 ≤ s.parseRem)
    (hc : s.Usable (s.operands.regs.srcAddr + 8 + s.parseSize) 4) (hv : s.operands.verifyEn = true) :
    (s.operands.regs.srcAddr + 8, s.parseSize) ∈ s.parseReadSet s.operands := by
  rw [State.parseReadSet_operands, hr, if_neg (by simp), if_neg (by omega), hu.1, if_neg (by simp), if_neg (by omega), hc.1,
    hv, Bool.and_self, if_pos rfl]
  simp

end ParseReads

/-! ## Refusals -/

/-- The outcome of a command whose footprint holds a device, or not: a refusal, or a next state (R68). -/
def DecidedBy (device : Bool) (o : Host.Outcome State Fault Refusal) : Prop :=
  (device = true ∧ o = .refused .deviceFootprint) ∨ (device = false ∧ ∃ t, o = .next t)

theorem execCrcForm_decided (i : Instr) (init final : Bool) (s : State)
    (hi : s.readSet i s.operands = if rangeOK s.operands.regs.crcAddr.toNat s.operands.regs.crcLen.toNat then
      [(s.operands.regs.crcAddr.toNat, s.operands.regs.crcLen.toNat)] else [])
    (hw : writeSetOf i s.operands.regs = (0, 0)) : DecidedBy (s.onDevice i s.operands) (execCrcForm i init final s) := by
  unfold State.onDevice State.footprint
  rw [hi, hw]
  rcases execCrcForm_cases i init final s with ⟨hr, e⟩ | ⟨hr, ⟨hd, e⟩ | ⟨hu, e⟩ | ⟨hd, -, e⟩⟩ <;> rw [e, hr]
  · exact .inr ⟨by simp, _, rfl⟩
  · exact .inl ⟨by simp [hd], rfl⟩
  · exact .inr ⟨by simp [hu.2], _, rfl⟩
  · exact .inr ⟨by simp [hd], _, rfl⟩

theorem execSigchk_decided (s : State) : DecidedBy (s.onDevice .sigchk s.operands) (execSigchk s) := by
  unfold State.onDevice State.footprint State.readSet writeSetOf
  rcases execSigchk_cases s with ⟨hr, e⟩ | ⟨hr, ⟨h8, e⟩ | ⟨h8, ⟨hd, e⟩ | ⟨hu, e⟩ | ⟨hd, -, e⟩⟩⟩ <;> rw [e]
  · exact .inr ⟨by simp [hr], _, rfl⟩
  · exact .inr ⟨by simp [hr, h8], _, rfl⟩
  · exact .inl ⟨by simp [hr, h8, hd], rfl⟩
  · exact .inr ⟨by simp [hr, h8, hu.2], _, rfl⟩
  · exact .inr ⟨by simp [hr, h8, hd], _, rfl⟩

theorem execMkchunk_decided (s : State) : DecidedBy (s.onDevice .mkchunk s.operands) (execMkchunk s) := by
  unfold State.onDevice State.footprint State.readSet writeSetOf
  rcases execMkchunk_cases s with ⟨hr, e⟩ | ⟨hr, ⟨hd, e⟩ | ⟨hu, e⟩ | ⟨hd, -, e⟩⟩ <;> rw [e]
  · exact .inr ⟨by simp [hr], _, rfl⟩
  · exact .inl ⟨by simp [hr, hd], rfl⟩
  · exact .inr ⟨by simp [hr, hu.2], _, rfl⟩
  · exact .inr ⟨by simp [hr, hd], _, rfl⟩

theorem execEmitsig_decided (s : State) : DecidedBy (s.onDevice .emitsig s.operands) (execEmitsig s) := by
  unfold State.onDevice State.footprint State.readSet writeSetOf
  rcases execEmitsig_cases s with ⟨c, hc, e⟩ | ⟨hn, ⟨hd, e⟩ | ⟨hu, e⟩ | ⟨hd, -, e⟩⟩ <;> rw [e]
  · exact .inr ⟨by simp [hc], _, rfl⟩
  · exact .inl ⟨by simp [hn, hd], rfl⟩
  · exact .inr ⟨by simp [hn, hu.2], _, rfl⟩
  · exact .inr ⟨by simp [hn, hd], _, rfl⟩

theorem execEmit_decided (s : State) : DecidedBy (s.onDevice .emit s.operands) (execEmit s) := by
  unfold State.onDevice State.footprint State.readSet writeSetOf
  rcases execEmit_cases s with ⟨c, hc, e⟩ | ⟨hn, ⟨hd, e⟩ | ⟨hw, hr, e⟩ | ⟨hw, hr, -, e⟩⟩ <;> rw [e]
  · exact .inr ⟨by simp [hc], _, rfl⟩
  · exact .inl ⟨by simp [hn, hd.symm], rfl⟩
  · exact .inr ⟨by simp [hn, hw.2, hr.2], _, rfl⟩
  · exact .inr ⟨by simp [hn, hw, hr], _, rfl⟩

theorem execParse_decided (s : State) : DecidedBy (s.onDevice .parse s.operands) (execParse s) := by
  have hset : s.footprint .parse s.operands = s.parseReadSet s.operands ++ [(0, 0)] := rfl
  have hmem : ∀ p ∈ s.parseReadSet s.operands, s.platform.anyDevice p.1 p.2 = true →
      s.onDevice .parse s.operands = true := fun p hp hd => State.onDevice_of_mem_readSet (i := .parse) hp hd
  have hfree : (s.parseReadSet s.operands).any (fun p => s.platform.anyDevice p.1 p.2) = false →
      s.onDevice .parse s.operands = false := fun h => by simp [State.onDevice, hset, h]
  rw [State.parseReadSet_operands] at hfree
  have hfits : s.parseSize + 12 ≤ s.parseRem → ¬ s.parseRem - 8 < s.parseSize + 4 := fun _ => by omega
  have hlong : 8 ≤ s.parseRem → s.parseRem < s.parseSize + 12 → s.parseRem - 8 < s.parseSize + 4 := fun _ _ => by omega
  have hcase := execParse_case s
  generalize execParse s = out at hcase ⊢
  cases hcase with
  | range h => exact .inr ⟨hfree (by simp [h]), _, rfl⟩
  | short h h8 => exact .inr ⟨hfree (by simp [h, h8]), _, rfl⟩
  | headerDevice h h8 hd => exact .inl ⟨hmem _ (State.header_mem_parseReadSet h h8) hd, rfl⟩
  | headerBus h h8 hd ha => exact .inr ⟨hfree (by simp [h, Nat.not_lt.2 h8, ha, hd]), _, rfl⟩
  | truncated h h8 hu ht => exact .inr ⟨hfree (by simp [h, Nat.not_lt.2 h8, hu.1, hlong h8 ht, hu.2]), _, rfl⟩
  | crcDevice h h8 hu ht hd => exact .inl ⟨hmem _ (State.crc_mem_parseReadSet h hu ht) hd, rfl⟩
  | crcBus h h8 hu ht hd ha => exact .inr ⟨hfree (by simp [h, Nat.not_lt.2 h8, hu.1, hfits ht, ha, hu.2, hd]), _, rfl⟩
  | plain h h8 hu ht hc hv => exact .inr ⟨hfree (by simp [h, Nat.not_lt.2 h8, hu.1, hfits ht, hv, hu.2, hc.2]), _, rfl⟩
  | payloadDevice h h8 hu ht hc hv hd => exact .inl ⟨hmem _ (State.payload_mem_parseReadSet h hu ht hc hv) hd, rfl⟩
  | payloadBus h h8 hu ht hc hv hd =>
    exact .inr ⟨hfree (by simp [h, Nat.not_lt.2 h8, hu.1, hfits ht, hv, hc.1, hu.2, hc.2, hd]), _, rfl⟩
  | verified h h8 hu ht hc hv hp =>
    exact .inr ⟨hfree (by simp [h, Nat.not_lt.2 h8, hu.1, hfits ht, hv, hc.1, hu.2, hc.2, hp.2]), _, rfl⟩

/-- No command faults, and a device in its footprint, or none, decides between a refusal and a next state (R68, R190). -/
theorem exec_decided (i : Instr) (s : State) : DecidedBy (s.onDevice i s.operands) (exec i s) := by
  cases i with
  | nop | badcmd => exact .inr ⟨by simp [State.onDevice, State.footprint, State.readSet, writeSetOf], _, rfl⟩
  | crc | crcI | crcF | crcIF => exact execCrcForm_decided _ _ _ s rfl rfl
  | sigchk => exact execSigchk_decided s
  | parse => exact execParse_decided s
  | emitsig => exact execEmitsig_decided s
  | emit => exact execEmit_decided s
  | mkchunk => exact execMkchunk_decided s

theorem exec_refused_iff (i : Instr) (s : State) (e : Refusal) :
    exec i s = .refused e ↔ e = .deviceFootprint ∧ s.onDevice i s.operands = true := by
  rcases exec_decided i s with ⟨hd, he⟩ | ⟨hd, t, he⟩ <;> simp [he, hd, eq_comm]

theorem exec_refused_of_onDevice {i : Instr} {s : State} (h : s.onDevice i s.operands = true) :
    exec i s = .refused .deviceFootprint :=
  (exec_refused_iff i s _).2 ⟨rfl, h⟩

theorem exec_refused_of_mem_readSet {i : Instr} {s : State} {a n : Nat} (hm : (a, n) ∈ s.readSet i s.operands)
    (hd : s.platform.anyDevice a n = true) : exec i s = .refused .deviceFootprint :=
  exec_refused_of_onDevice (State.onDevice_of_mem_readSet hm hd)

theorem exec_refused_of_writeSet {i : Instr} {s : State} {a n : Nat} (hw : writeSetOf i s.operands.regs = (a, n))
    (hd : s.platform.anyDevice a n = true) : exec i s = .refused .deviceFootprint :=
  exec_refused_of_onDevice (State.onDevice_of_writeSet (by rwa [hw]))

/-- Settles O9: by what a device in the footprint decides. -/
theorem commandsStopOnlyOnDevices : Obligations.CommandsStopOnlyOnDevices := by
  intro i s
  refine ⟨fun f hf => ?_, fun e => by rw [← State.onDevice_iff, exec_refused_iff]⟩
  rcases exec_decided i s with ⟨-, he⟩ | ⟨-, t, he⟩ <;> simp [he] at hf

/-- Settles O8: without a device the Engine's step answers a next state, which is a completion. -/
theorem everyCommandCompletes : Obligations.EveryCommandCompletes := by
  intro s h hdev ht hi
  obtain ⟨r, hr⟩ := Option.isSome_iff_exists.1 hi
  rcases exec_decided (decode r.word) s with ⟨hd, -⟩ | ⟨-, t, he⟩
  · simp [State.onDevice_of_no_devices hdev] at hd
  have hc := exec_nextCase he
  obtain ⟨hbusy, hdone, hovf, hrdy⟩ := hc.status_flags
  obtain ⟨hctrl, -, -, -, hagents, -, -, hnone⟩ := hc.frame
  have hstep : step s = .next t :=
    (step_of_default_busy ht (h.busy_of_inflight hr)).trans ((State.engineStep_of_inflight hr).trans he)
  exact ⟨t, hstep, hnone, hbusy, hdone, hovf, hrdy, hagents, hctrl⟩

/-- Settles O10: each access named is in the footprint, so a device there refuses the command. -/
theorem deviceFootprintIsRefused : Obligations.DeviceFootprintIsRefused := by
  intro s o
  refine ⟨fun i hi hr hd => ?_, fun hr h8 hd => ?_, ?_, fun hr hf hd => ?_, fun hn hd => ?_,
    fun hr hd => ?_, fun r ts ht hi hd => ?_⟩
  · have hmem : (o.crcAddr.toNat, o.crcLen.toNat) ∈ s.readSet i s.operands := by
      simp only [List.mem_cons, List.not_mem_nil, or_false] at hi
      rcases hi with rfl | rfl | rfl | rfl <;> simp [State.readSet, o, (rangeOK_iff _ _).2 hr]
    exact exec_refused_of_mem_readSet hmem hd
  · have hmem : (o.srcBase.toNat, 8) ∈ s.readSet .sigchk s.operands := by
      simp [State.readSet, o, (rangeOK_iff _ _).2 hr, h8]
    exact exec_refused_of_mem_readSet hmem hd
  · intro hr h8 at0 size
    have hr' := (rangeOK_iff _ _).2 hr
    have hrem : 8 ≤ s.parseRem := (s.le_parseRem_iff (by decide)).2 h8
    have hsize : s.parseSize = size := s.parseSize_eq
    refine ⟨fun hd => ?_, fun hu hfit => ?_⟩
    · exact exec_refused_of_mem_readSet (i := .parse) (State.header_mem_parseReadSet hr' hrem) hd
    have hrem12 : s.parseSize + 12 ≤ s.parseRem :=
      (s.le_parseRem_iff (by omega)).2 (by rw [hsize, Nat.add_comm size, ← Nat.add_assoc]; exact hfit)
    rw [← hsize]
    refine ⟨fun hd => ?_, fun hc hv hd => ?_⟩
    · exact exec_refused_of_mem_readSet (i := .parse) (State.crc_mem_parseReadSet hr' hu hrem12) hd
    · exact exec_refused_of_mem_readSet (i := .parse) (State.payload_mem_parseReadSet hr' hu hrem12 hc hv) hd
  · have hset : writeSetOf .emitsig s.operands.regs = (o.dstAddr, 8) := by
      simp [writeSetOf, o, (emitsigCheck_none_iff s.operands.regs).2 ⟨hr, hf⟩]
    exact exec_refused_of_writeSet hset hd
  · have hn' : emitCheck s.operands.regs = none := hn
    rcases hd with hd | hd
    · have hset : writeSetOf .emit s.operands.regs = (o.dstAddr, o.emitLength) := by simp [writeSetOf, o, hn']
      exact exec_refused_of_writeSet hset hd
    · have hmem : (o.chDaddr.toNat, o.chSize.toNat) ∈ s.readSet .emit s.operands := by simp [State.readSet, o, hn']
      exact exec_refused_of_mem_readSet hmem hd
  · have hmem : (o.chDaddr.toNat, o.chDlen.toNat) ∈ s.readSet .mkchunk s.operands := by
      simp [State.readSet, o, (rangeOK_iff _ _).2 hr]
    exact exec_refused_of_mem_readSet hmem hd
  · rw [step_of_reset ht]
    exact State.resetStep_refused (s := { s with turns := ts }) hi ((s.onDevice_iff _ r).2 hd)

/-! ## Write sets -/

theorem State.operands_of_inflight {s : State} {r : CmdRecord} (h : s.inflight = some r) : s.operands = r := by
  simp [State.operands, h]

/-- Memory outside the write set is as before (R69). -/
theorem NextCase.sameMemoryOutside {i : Instr} {s t : State} (h : NextCase s i t) :
    s.SameMemoryOutside t (writeSetOf i s.operands.regs).1 (writeSetOf i s.operands.regs).2 := by
  intro x hx
  rcases h.memory with ⟨-, e, -⟩ | ⟨a, bs, hw, e, -⟩ | ⟨a, n, hw, e, -⟩ <;> rw [e]
  · exact s.read_engineStore_of_outside a bs (by simpa [hw] using hx)
  · exact s.read_scramble_of_outside a n (by simpa [hw] using hx)

/-- Settles O14: by the memory each completion leaves. -/
theorem commandsWriteOnlyTheirWriteSet : Obligations.CommandsWriteOnlyTheirWriteSet := by
  intro s t r hr h
  have hout := (exec_nextCase h).sameMemoryOutside
  rwa [State.operands_of_inflight hr] at hout

/-- PARSE reads, where bytes remain, from its start address on and no further than they do (R35). -/
theorem State.parseReadSet_bounds {s : State} {p : Nat × Nat} (hp : p ∈ s.parseReadSet s.operands) :
    0 < s.parseRem ∧ s.operands.regs.srcAddr ≤ p.1 ∧ p.1 + p.2 ≤ s.operands.regs.srcAddr + s.parseRem := by
  rw [State.parseReadSet_operands] at hp
  split_ifs at hp <;> simp only [List.mem_cons, List.not_mem_nil, or_false] at hp
  · subst hp
    omega
  · subst hp
    omega
  · rcases hp with rfl | rfl | rfl <;> omega
  · rcases hp with rfl | rfl <;> omega

theorem writeSetOf_bounds {i : Instr} {o : OperandRegs} (h : 0 < (writeSetOf i o).2) :
    o.dstBase.toNat ≤ (writeSetOf i o).1 ∧
      (writeSetOf i o).1 + (writeSetOf i o).2 ≤ o.dstBase.toNat + o.dstLen.toNat ∧
      o.dstBase.toNat + o.dstLen.toNat ≤ 2 ^ 32 := by
  cases i with
  | emitsig =>
    by_cases hn : emitsigCheck o = none
    · obtain ⟨hr, hf⟩ := (emitsigCheck_none_iff o).1 hn
      simp only [writeSetOf_emitsig hn, OperandRegs.dstAddr]
      omega
    · simp [writeSetOf, hn] at h
  | emit =>
    by_cases hn : emitCheck o = none
    · obtain ⟨hr, -, -, hf, -⟩ := (emitCheck_none_iff o).1 hn
      simp only [writeSetOf_emit hn, OperandRegs.dstAddr]
      omega
    · simp [writeSetOf, hn] at h
  | _ => simp [writeSetOf] at h

/-- Settles O16: by the bytes that remain from the cursor, and the checks that a write set passes. -/
theorem footprintsStayInTheirBuffers : Obligations.FootprintsStayInTheirBuffers := by
  refine ⟨fun s i hi p hp => ?_, fun r h => writeSetOf_bounds h⟩
  rcases hi with rfl | rfl
  · simp only [State.readSet, Bool.and_eq_true, decide_eq_true_eq] at hp
    split_ifs at hp with h
    · obtain rfl := List.mem_singleton.1 hp
      simp only
      omega
    · simp at hp
  · obtain ⟨hpos, h1, h2⟩ := State.parseReadSet_bounds (s := s) hp
    have hrem := (s.le_parseRem_iff hpos).1 le_rfl
    unfold OperandRegs.srcAddr at h1 h2
    omega

end Sys2Proof.Machine
end

section
/-! What a command's results depend on: its operands, the table and the bytes of its read set, and no register that the Host may
write meanwhile (20_memory.md section 3, 42_control.md section 2). -/

namespace Sys2Proof.Machine

/-! ## Outcomes that match -/

/-- Two outcomes of a command: next states that R relates, or the same refusal. -/
inductive Matching (R : State → State → Prop) :
    Host.Outcome State Fault Refusal → Host.Outcome State Fault Refusal → Prop where
  | next {t u : State} (h : R t u) : Matching R (.next t) (.next u)
  | refused (e : Refusal) : Matching R (.refused e) (.refused e)

theorem Matching.ite {R : State → State → Prop} {c : Prop} [Decidable c] {a a' b b' : Host.Outcome State Fault Refusal}
    (ht : c → Matching R a a') (hf : ¬ c → Matching R b b') :
    Matching R (if c then a else b) (if c then a' else b') := by
  split_ifs with hc
  · exact ht hc
  · exact hf hc

/-- What a command reads of a state beside memory is the same in s and s'; DONE and OVF, which it does not read, may differ. -/
structure State.Alike (s s' : State) : Prop where
  operands : s'.operands = s.operands
  regs : s'.regs = s.regs
  crcRes : s'.crcRes = s.crcRes
  table : s'.table = s.table
  platform : s'.platform = s.platform
  dirty : s'.dirty = s.dirty
  contested : s'.contested = s.contested
  raced : s'.raced = s.raced
  draws : s'.draws = s.draws
  status : s'.status = { s.status with done := s'.status.done, ovf := s'.status.ovf }

/-- Completions t of s and u of s' with the same results, and with the same memory where they started with the same. -/
structure SameResults (s s' t u : State) : Prop where
  regs : u.regs = t.regs
  crcRes : u.crcRes = t.crcRes
  status : u.status = { t.status with ovf := u.status.ovf }
  mem : s'.mem = s.mem → u.mem = t.mem

section

variable {s s' : State}

theorem State.Alike.failClosed (h : s.Alike s') (i : Instr) (c : ErrCode) :
    (s'.status.failClosed i).completed c =
      { (s.status.failClosed i).completed c with ovf := ((s'.status.failClosed i).completed c).ovf } := by
  simp only [Status.failClosed_eq, Status.completed]
  rw [h.status]

theorem State.Alike.raise (h : s.Alike s') (i : Instr) (c : ErrCode) : SameResults s s' (s.raise i c) (s'.raise i c) where
  regs := h.regs
  crcRes := h.crcRes
  status := h.failClosed i c
  mem := id

/-- A BUS that scrambled the write range first. -/
theorem State.Alike.raise_scramble (h : s.Alike s') (a n : Nat) (i : Instr) (c : ErrCode) :
    SameResults s s' ((s.scramble a n).raise i c) ((s'.scramble a n).raise i c) where
  regs := h.regs
  crcRes := h.crcRes
  status := h.failClosed i c
  mem hm := by simp only [State.raise_mem, State.scramble_mem, hm, h.draws]

theorem State.Alike.engineBytes (h : s.Alike s') {a n : Nat} (hm : ∀ x, a ≤ x → x < a + n → s'.mem.read x = s.mem.read x) :
    s'.engineBytes a n = s.engineBytes a n :=
  State.engineBytes_congr h.raced h.dirty h.contested h.draws hm

theorem State.Alike.landed (h : s.Alike s') (a : Nat) (bs : List Byte) : s'.landed a bs = s.landed a bs := by
  induction bs generalizing a with
  | nil => rfl
  | cons b bs ih =>
    have hu : s'.unsettled a = s.unsettled a := by simp only [State.unsettled, h.raced, h.dirty]
    simp only [State.landed, hu, h.draws, ih]

theorem State.Alike.engineStore_mem (h : s.Alike s') (hm : s'.mem = s.mem) (a : Nat) (bs : List Byte) :
    (s'.engineStore a bs).mem = (s.engineStore a bs).mem := by
  rw [State.engineStore_mem, State.engineStore_mem, hm, h.landed]

/-- Reads of a command that see the same bytes go the same way. -/
theorem State.Alike.withRead (h : s.Alike s') {R : State → State → Prop} {i : Instr} {v v' : State} {a n : Nat}
    {k k' : List Byte → Host.Outcome State Fault Refusal} (hb : s'.engineBytes a n = s.engineBytes a n)
    (hbus : R (v.raise i .bus) (v'.raise i .bus))
    (hk : s.Usable a n → Matching R (k (s.engineBytes a n)) (k' (s.engineBytes a n))) :
    Matching R (s.withRead i v a n k) (s'.withRead i v' a n k') := by
  unfold State.withRead
  rw [h.platform, hb]
  exact .ite (fun _ => .refused _) fun hd => .ite (fun ha => hk ⟨ha, by simpa using hd⟩) fun _ => .next hbus

/-- Writes of a command of the same bytes go the same way. -/
theorem State.Alike.withWrite (h : s.Alike s') {i : Instr} {a : Nat} {bs : List Byte}
    {k k' : State → Host.Outcome State Fault Refusal}
    (hk : Matching (SameResults s s') (k (s.engineStore a bs)) (k' (s'.engineStore a bs))) :
    Matching (SameResults s s') (s.withWrite i a bs k) (s'.withWrite i a bs k') := by
  unfold State.withWrite
  rw [h.platform]
  exact .ite (fun _ => .refused _) fun _ => .ite (fun _ => hk) fun _ => .next (h.raise_scramble _ _ _ _)

/-! ## Command by command -/

/-- Memory is the same over a command's read set. -/
def State.SameReads (s s' : State) (i : Instr) : Prop :=
  ∀ p ∈ s.readSet i s.operands, ∀ x, p.1 ≤ x → x < p.1 + p.2 → s'.mem.read x = s.mem.read x

theorem State.Alike.engineBytes_of_mem (h : s.Alike s') {i : Instr} (hm : s.SameReads s' i) {a n : Nat}
    (hp : (a, n) ∈ s.readSet i s.operands) : s'.engineBytes a n = s.engineBytes a n :=
  h.engineBytes (hm _ hp)

theorem State.Alike.execCrcForm (h : s.Alike s') {i : Instr} (init final : Bool) (hm : s.SameReads s' i)
    (hi : s.readSet i s.operands = if rangeOK s.operands.regs.crcAddr.toNat s.operands.regs.crcLen.toNat then
      [(s.operands.regs.crcAddr.toNat, s.operands.regs.crcLen.toNat)] else []) :
    Matching (SameResults s s') (execCrcForm i init final s) (execCrcForm i init final s') := by
  unfold Sys2Proof.Machine.execCrcForm
  rw [h.operands]
  refine .ite (fun hr => ?_) fun _ => .next (h.raise i .range)
  refine h.withRead (h.engineBytes_of_mem hm (by rw [hi, if_pos hr]; simp)) (h.raise i .bus) fun _ => .next ?_
  exact {
    regs := by simp [h.regs, h.table, h.operands]
    crcRes := by simp [h.crcRes, h.table, h.operands]
    status := h.failClosed .crc .ok
    mem := id }

theorem State.Alike.sigchkResult (h : s.Alike s') (v : Bool) : SameResults s s' (s.sigchkResult v) (s'.sigchkResult v) where
  regs := h.regs
  crcRes := h.crcRes
  status := by
    simp only [State.sigchkResult_status, Status.withSigok, Status.completed]
    rw [h.status]
  mem := id

theorem State.Alike.execSigchk (h : s.Alike s') (hm : s.SameReads s' .sigchk) :
    Matching (SameResults s s') (execSigchk s) (execSigchk s') := by
  unfold Sys2Proof.Machine.execSigchk
  rw [h.operands]
  refine .ite (fun hr => ?_) fun _ => .next (h.raise .sigchk .range)
  refine .ite (fun _ => .next (h.sigchkResult false)) fun h8 => ?_
  refine h.withRead (h.engineBytes_of_mem hm ?_) (h.raise .sigchk .bus) fun _ => .next (h.sigchkResult _)
  simp [State.readSet, hr, Nat.not_lt.1 h8]

theorem State.Alike.withParse (h : s.Alike s') (stop bad : Bool) :
    (s'.status.withParse stop bad).completed .ok =
      { (s.status.withParse stop bad).completed .ok with ovf := ((s'.status.withParse stop bad).completed .ok).ovf } := by
  simp only [Status.withParse, Status.completed]
  rw [h.status]

theorem State.Alike.parseStop (h : s.Alike s') : SameResults s s' s.parseStop s'.parseStop where
  regs := h.regs
  crcRes := h.crcRes
  status := h.withParse true false
  mem := id

theorem State.Alike.parseChunk (h : s.Alike s') (hd : List Byte) (crc : Word) (bad : Bool) :
    SameResults s s' (s.parseChunk hd crc bad) (s'.parseChunk hd crc bad) where
  regs := by simp [h.regs, h.operands]
  crcRes := h.crcRes
  status := h.withParse false bad
  mem := id

theorem State.Alike.execParse (h : s.Alike s') (hm : s.SameReads s' .parse) :
    Matching (SameResults s s') (execParse s) (execParse s') := by
  unfold Sys2Proof.Machine.execParse
  rw [h.operands, h.table]
  have hbus := h.raise .parse .bus
  refine .ite (fun hr => ?_) fun _ => .next (h.raise .parse .range)
  refine .ite (fun _ => .next h.parseStop) fun h8 => ?_
  have hheader := State.header_mem_parseReadSet hr (Nat.not_lt.1 h8)
  refine h.withRead (h.engineBytes_of_mem hm hheader) hbus fun hu => ?_
  refine .ite (fun _ => .next h.parseStop) fun ht => ?_
  have hfit : s.parseSize + 12 ≤ s.parseRem := by
    unfold State.parseSize State.parseRem
    omega
  refine h.withRead (h.engineBytes_of_mem hm (State.crc_mem_parseReadSet hr hu hfit)) hbus fun hc => ?_
  refine .ite (fun hv => ?_) fun _ => .next (h.parseChunk _ _ _)
  exact h.withRead (h.engineBytes_of_mem hm (State.payload_mem_parseReadSet hr hu hfit hc hv)) hbus fun _ =>
    .next (h.parseChunk _ _ _)

/-- The state after a store at the write cursor. -/
theorem State.Alike.stored (h : s.Alike s') (a n : Nat) (bs : List Byte) :
    SameResults s s' ((s.engineStore a bs).advanceDst n).finish ((s'.engineStore a bs).advanceDst n).finish where
  regs := by
    have hop : (s'.engineStore a bs).operands = (s.engineStore a bs).operands := h.operands
    simp [h.regs, hop]
  crcRes := h.crcRes
  status := h.failClosed .emit .ok
  mem hm := h.engineStore_mem hm a bs

theorem State.Alike.execEmitsig (h : s.Alike s') : Matching (SameResults s s') (execEmitsig s) (execEmitsig s') := by
  unfold Sys2Proof.Machine.execEmitsig
  rw [h.operands]
  simp only
  split
  · exact .next (h.raise .emitsig _)
  · exact h.withWrite (.next (h.stored _ 8 signature))

theorem State.Alike.execEmit (h : s.Alike s') (hm : s.SameReads s' .emit) :
    Matching (SameResults s s') (execEmit s) (execEmit s') := by
  unfold Sys2Proof.Machine.execEmit
  rw [h.operands]
  simp only
  split
  · exact .next (h.raise .emit _)
  · next hn =>
    rw [h.platform]
    refine .ite (fun _ => .refused _) fun _ => ?_
    refine h.withRead (h.engineBytes_of_mem hm (by simp [State.readSet, hn])) (h.raise_scramble _ _ _ _) fun _ => ?_
    exact h.withWrite (.next (h.stored _ _ _))

theorem State.Alike.execMkchunk (h : s.Alike s') (hm : s.SameReads s' .mkchunk) :
    Matching (SameResults s s') (execMkchunk s) (execMkchunk s') := by
  unfold Sys2Proof.Machine.execMkchunk
  rw [h.operands]
  refine .ite (fun hr => ?_) fun _ => .next (h.raise .mkchunk .range)
  refine h.withRead (h.engineBytes_of_mem hm (by simp [State.readSet, hr])) (h.raise .mkchunk .bus) fun _ => .next ?_
  exact {
    regs := by simp [h.regs, h.table, h.operands]
    crcRes := h.crcRes
    status := h.failClosed .mkchunk .ok
    mem := id }

/-- States that are alike and agree on a command's read set give it the same outcome (R69, R172). -/
theorem State.Alike.exec (h : s.Alike s') {i : Instr} (hm : s.SameReads s' i) :
    Matching (SameResults s s') (exec i s) (exec i s') := by
  cases i with
  | nop => exact .next (h.raise .nop .ok)
  | badcmd w => exact .next (h.raise (.badcmd w) .badcmd)
  | crc | crcI | crcF | crcIF => exact h.execCrcForm _ _ hm rfl
  | sigchk => exact h.execSigchk hm
  | parse => exact h.execParse hm
  | emitsig => exact h.execEmitsig
  | emit => exact h.execEmit hm
  | mkchunk => exact h.execMkchunk hm

theorem State.Alike.exec_next {t : State} (h : s.Alike s') {i : Instr} (hm : s.SameReads s' i)
    (he : Sys2Proof.Machine.exec i s = .next t) :
    ∃ u, Sys2Proof.Machine.exec i s' = .next u ∧ SameResults s s' t u := by
  have hx := h.exec hm
  rw [he] at hx
  generalize Sys2Proof.Machine.exec i s' = out at hx ⊢
  cases hx with
  | next hr => exact ⟨_, rfl, hr⟩

theorem State.Alike.exec_refused {e : Refusal} (h : s.Alike s') {i : Instr} (hm : s.SameReads s' i)
    (he : Sys2Proof.Machine.exec i s = .refused e) : Sys2Proof.Machine.exec i s' = .refused e := by
  have hx := h.exec hm
  rw [he] at hx
  generalize Sys2Proof.Machine.exec i s' = out at hx ⊢
  cases hx with
  | refused => rfl

end

/-- Settles O15: another memory changes nothing else that a command reads. -/
theorem commandsReadOnlyTheirReadSet : Obligations.CommandsReadOnlyTheirReadSet := by
  intro i s m hm
  have halike : s.Alike { s with mem := m } := by constructor <;> rfl
  refine ⟨fun t he => ?_, fun e he => halike.exec_refused hm he⟩
  obtain ⟨u, hu, hr⟩ := halike.exec_next hm he
  have hovf : u.status.ovf = t.status.ovf := by
    rw [(exec_nextCase hu).status_flags.2.2.1, (exec_nextCase he).status_flags.2.2.1]
  refine ⟨u, hu, hr.regs, hr.crcRes, ?_⟩
  rw [hr.status, hovf]

/-- While BUSY = 1 a register write changes CTRL, TBL_IDX, DONE or OVF, and nothing else (R173). -/
theorem State.regWrite_of_busy {s : State} (hb : s.status.busy = true) (r : Reg) (v : Word) :
    ∃ (c : Ctrl) (x : BitVec 8) (done ovf : Bool), s.regWrite r v =
      { s with ctrl := c, tblIdx := x, status := { s.status with done := done, ovf := ovf } } := by
  cases r with
  | ID | CRC_RES | TBL_DATA | CTRL | TBL_IDX | STATUS => exact ⟨_, _, _, _, rfl⟩
  | CMD => exact ⟨_, _, _, _, State.regWrite_cmd_of_busy hb v⟩
  | _ =>
    rw [State.regWrite_operand (by decide), if_pos hb]
    exact ⟨_, _, _, _, rfl⟩

/-- The command in flight reads none of these: its VERIFY_EN is the record's (R172). -/
theorem State.alike_of_inflight {s : State} {c : CmdRecord} (hc : s.inflight = some c) (ctrl : Ctrl) (x : BitVec 8)
    (done ovf : Bool) :
    s.Alike { s with ctrl := ctrl, tblIdx := x, status := { s.status with done := done, ovf := ovf } } where
  operands := by simp [State.operands, hc]
  regs := rfl
  crcRes := rfl
  table := rfl
  platform := rfl
  dirty := rfl
  contested := rfl
  raced := rfl
  draws := rfl
  status := rfl

/-- Settles O17: a register write while BUSY = 1 leaves a state alike, with the same memory. -/
theorem noWriteChangesACommandMidway : Obligations.NoWriteChangesACommandMidway := by
  intro s t c r v hb hc he
  obtain ⟨ctrl, x, done, ovf, hw⟩ := State.regWrite_of_busy hb r v
  rw [hw]
  obtain ⟨u, hu, hr⟩ := (State.alike_of_inflight hc ctrl x done ovf).exec_next (fun _ _ _ _ _ => rfl) he
  exact ⟨u, hu, hr.regs, hr.crcRes, hr.mem rfl, hr.status⟩

end Sys2Proof.Machine
end

section
/-! The CRC engine: folding, the table against the bit-serial register, the four forms of the command, and a CRC taken over
several ranges (40_crc_engine.md). -/

namespace Sys2Proof.Machine

/-! ## Folding -/

@[simp] theorem crcFold_nil (t : List Word) (acc : Word) : crcFold t acc [] = acc := rfl

theorem crcFold_append (t : List Word) (acc : Word) (xs ys : List Byte) :
    crcFold t acc (xs ++ ys) = crcFold t (crcFold t acc xs) ys := by
  induction xs generalizing acc with
  | nil => rfl
  | cons x xs ih => exact ih _

/-- Settles O35: by induction on the first part. -/
theorem crcFoldOfConcatenation : Obligations.CrcFoldOfConcatenation := fun t acc xs ys =>
  ⟨crcFold_nil t acc, crcFold_append t acc xs ys⟩

/-- Settles O34: by computation, through the one table entry that each byte needs. -/
theorem crcKnownVectors : Obligations.CrcKnownVectors := by
  refine ⟨rfl, ?_, ?_, by decide, by decide, by decide, by decide⟩ <;>
  · simp only [crc32, crcFold, crcStep_fullTable]
    decide

/-! ## The table against the shift register -/

theorem tableIter_of_even {v : Word} (h : v.getLsbD 0 = false) : tableIter v = v >>> 1 := by
  simp only [tableIter, h, Bool.false_eq_true, if_false]

theorem tableIter_of_odd {v : Word} (h : v.getLsbD 0 = true) : tableIter v = (v >>> 1) ^^^ crcPoly := by
  simp only [tableIter, h, if_true]

/-- A shift of the register is linear over exclusive or. -/
theorem tableIter_xor (x y : Word) : tableIter (x ^^^ y) = tableIter x ^^^ tableIter y := by
  have hbit : (x ^^^ y).getLsbD 0 = (x.getLsbD 0 ^^ y.getLsbD 0) := BitVec.getLsbD_xor
  cases hx : x.getLsbD 0 <;> cases hy : y.getLsbD 0 <;> rw [hx, hy] at hbit
  · rw [tableIter_of_even hx, tableIter_of_even hy, tableIter_of_even hbit, BitVec.ushiftRight_xor_distrib]
  · rw [tableIter_of_even hx, tableIter_of_odd hy, tableIter_of_odd hbit, BitVec.ushiftRight_xor_distrib, BitVec.xor_assoc]
  · rw [tableIter_of_odd hx, tableIter_of_even hy, tableIter_of_odd hbit, BitVec.ushiftRight_xor_distrib, BitVec.xor_assoc,
      BitVec.xor_assoc, BitVec.xor_comm crcPoly]
  · rw [tableIter_of_odd hx, tableIter_of_odd hy, tableIter_of_even hbit, BitVec.ushiftRight_xor_distrib, BitVec.xor_assoc,
      BitVec.xor_comm crcPoly, BitVec.xor_assoc, BitVec.xor_self, BitVec.xor_zero]

theorem iterate_tableIter_xor (n : Nat) (x y : Word) : tableIter^[n] (x ^^^ y) = tableIter^[n] x ^^^ tableIter^[n] y := by
  induction n generalizing x y with
  | zero => rfl
  | succ n ih =>
    rw [Function.iterate_succ_apply, tableIter_xor, ih, ← Function.iterate_succ_apply, ← Function.iterate_succ_apply]

/-- While only zeros leave the register, shifting is all it does. -/
theorem iterate_tableIter_of_low_zero (n : Nat) {v : Word} (h : ∀ j, j < n → v.getLsbD j = false) :
    tableIter^[n] v = v >>> n := by
  induction n with
  | zero => simp
  | succ n ih =>
    have hbit : (v >>> n).getLsbD 0 = false := by simpa using h n (by omega)
    rw [Function.iterate_succ_apply', ih fun j _ => h j (by omega), tableIter_of_even hbit, ← BitVec.shiftRight_add]

theorem tableEntry_eq_iterate (n : Nat) : tableEntry n = tableIter^[8] (BitVec.ofNat 32 n) := rfl

theorem bitSerialStep_eq_iterate (acc : Word) (b : Byte) : bitSerialStep acc b = tableIter^[8] (acc ^^^ b.setWidth 32) := rfl

theorem getLsbD_lowByteMask (j : Nat) : (0xFF#32).getLsbD j = decide (j < 8) := by
  have h : (0xFF#32).toNat = 2 ^ 8 - 1 := rfl
  rw [BitVec.getLsbD, h, Nat.testBit_two_pow_sub_one]

/-- The table has what the low byte leaves after 8 shifts; the bytes above it are only shifted (R100, R101, R103). -/
theorem crcStep_eq_bitSerialStep (acc : Word) (b : Byte) : crcStep fullTable acc b = bitSerialStep acc b := by
  set v := acc ^^^ b.setWidth 32 with hv
  set low := v &&& 0xFF#32 with hlow
  set high := v &&& ~~~0xFF#32 with hhigh
  have hsplit : v = high ^^^ low := by
    apply BitVec.eq_of_getLsbD_eq
    intro j hj
    simp only [hhigh, hlow, BitVec.getLsbD_xor, BitVec.getLsbD_and, BitVec.getLsbD_not, hj, decide_true, Bool.true_and]
    cases v.getLsbD j <;> cases (0xFF#32).getLsbD j <;> rfl
  have hzero : ∀ j, j < 8 → high.getLsbD j = false := by
    intro j hj
    rw [hhigh, BitVec.getLsbD_and, BitVec.getLsbD_not, getLsbD_lowByteMask]
    simp [hj]
  have hshift : high >>> 8 = acc >>> 8 := by
    apply BitVec.eq_of_getLsbD_eq
    intro j hj
    rw [BitVec.getLsbD_ushiftRight, BitVec.getLsbD_ushiftRight]
    rcases Nat.lt_or_ge (8 + j) 32 with hlt | hge
    · rw [hhigh, BitVec.getLsbD_and, BitVec.getLsbD_not, getLsbD_lowByteMask, hv, BitVec.getLsbD_xor,
        BitVec.getLsbD_setWidth, BitVec.getLsbD_of_ge b (8 + j) (by omega)]
      simp [hlt]
    · rw [BitVec.getLsbD_of_ge _ _ hge, BitVec.getLsbD_of_ge _ _ hge]
  calc crcStep fullTable acc b = (acc >>> 8) ^^^ tableEntry low.toNat := crcStep_fullTable acc b
    _ = (high >>> 8) ^^^ tableIter^[8] low := by rw [tableEntry_eq_iterate, BitVec.ofNat_toNat, BitVec.setWidth_eq, hshift]
    _ = tableIter^[8] high ^^^ tableIter^[8] low := by rw [iterate_tableIter_of_low_zero 8 hzero]
    _ = bitSerialStep acc b := by rw [← iterate_tableIter_xor, ← hsplit, bitSerialStep_eq_iterate]

/-- Settles O36: byte by byte. -/
theorem tableDrivenCrcIsBitSerial : Obligations.TableDrivenCrcIsBitSerial := by
  intro acc bs
  induction bs generalizing acc with
  | nil => rfl
  | cons b bs ih => rw [crcFold, bitSerialFold, crcStep_eq_bitSerialStep, ih]

/-! ## The command in its four forms -/

theorem exec_crcInstr (init final : Bool) (s : State) :
    exec (crcInstr init final) s = execCrcForm (crcInstr init final) init final s := by
  cases init <;> cases final <;> rfl

section

variable {s : State} (i : Instr) (init final : Bool)

theorem execCrcForm_of_usable (hr : s.operands.regs.crcAddr.toNat + s.operands.regs.crcLen.toNat ≤ 2 ^ 32)
    (hu : s.Usable s.operands.regs.crcAddr.toNat s.operands.regs.crcLen.toNat) :
    execCrcForm i init final s = .next (s.crcResult init final
      (s.engineBytes s.operands.regs.crcAddr.toNat s.operands.regs.crcLen.toNat)).finish := by
  unfold execCrcForm
  rw [if_pos ((rangeOK_iff _ _).2 hr), State.withRead_usable hu]

theorem execCrcForm_of_range (hr : 2 ^ 32 < s.operands.regs.crcAddr.toNat + s.operands.regs.crcLen.toNat) :
    execCrcForm i init final s = .next (s.raise i .range) := by
  simp [execCrcForm, (rangeOK_eq_false_iff _ _).2 hr]

theorem execCrcForm_of_bus (hr : s.operands.regs.crcAddr.toNat + s.operands.regs.crcLen.toNat ≤ 2 ^ 32)
    (hd : s.platform.anyDevice s.operands.regs.crcAddr.toNat s.operands.regs.crcLen.toNat = false)
    (ha : s.platform.allAnswer s.operands.regs.crcAddr.toNat s.operands.regs.crcLen.toNat = false) :
    execCrcForm i init final s = .next (s.raise i .bus) := by
  unfold execCrcForm
  rw [if_pos ((rangeOK_iff _ _).2 hr), State.withRead_bus hd ha]

end

/-- Settles O32: by the results of a CRC over a usable range. -/
theorem crcCommandResult : Obligations.CrcCommandResult := by
  intro init final s hT o hr hu acc
  have hacc : acc = crcFold s.table (if init then crcSeed else o.crcAcc)
      (s.engineBytes o.crcAddr.toNat o.crcLen.toNat) := by
    rw [hT]
    rfl
  rw [hacc]
  exact ⟨_, (exec_crcInstr init final s).trans (execCrcForm_of_usable _ init final hr hu), rfl, rfl, rfl,
    by simp [State.Frame], fun _ => rfl⟩

/-- Settles O33: by the check of the range, and the byte that does not answer. -/
theorem crcCommandErrors : Obligations.CrcCommandErrors := by
  intro init final s o
  refine ⟨fun hr => ?_, fun hr hd ha => ?_⟩
  · exact ⟨_, (exec_crcInstr init final s).trans (execCrcForm_of_range _ init final hr), rfl, rfl, rfl, fun _ => rfl⟩
  · exact ⟨_, (exec_crcInstr init final s).trans
      (execCrcForm_of_bus _ init final hr hd (Platform.allAnswer_eq_false ha)), rfl, rfl, rfl, fun _ => rfl⟩

/-! ## Commands issued one after the other -/

/-- Where a Host issues one command after another with nothing in between: idle, and with nothing that races (R225, R75). -/
structure State.Ready (s : State) : Prop where
  idle : s.Idle
  quiet : s.Quiet

/-- What a command leaves to the next: readiness, and what no command changes (R174). -/
theorem State.Ready.issue {s t : State} {i : Instr} (h : s.Ready) (he : s.issue i = .next t) :
    t.Ready ∧ t.platform = s.platform := by
  have hc := exec_nextCase he
  obtain ⟨hbusy, -⟩ := hc.status_flags
  obtain ⟨-, -, htable, hplat, -, -, hdirty, hnone⟩ := hc.frame
  have hraced : t.raced = [] := by cases hc <;> rfl
  exact ⟨⟨⟨hnone, hbusy, htable.trans h.idle.2.2⟩, ⟨hraced, hdirty.trans h.quiet.2⟩⟩, hplat⟩

/-- After acceptance the Engine still reads M (R64). -/
theorem State.Ready.engineBytes_accept {s : State} (h : s.Ready) (w : Word) (a n : Nat) :
    (s.accept w).engineBytes a n = s.mem.readBytes a n :=
  State.engineBytes_of_quiet (s := s.accept w) ⟨rfl, h.quiet.2⟩ a n

/-- A CRC over a usable range, issued where the Host may: the fold goes on in CRC_ACC, and FINAL shows its complement (R106). -/
theorem State.Ready.issue_crc {s : State} {p : Word × Word} (h : s.Ready) (init final : Bool)
    (hr : p.1.toNat + p.2.toNat ≤ 2 ^ 32) (hu : s.Usable p.1.toNat p.2.toNat) :
    ∃ t, (s.setCrcRange p).issue (crcInstr init final) = .next t ∧ t.Ready ∧ t.platform = s.platform ∧
      t.status.errcode = .ok ∧ t.mem = s.mem ∧ t.regs.chCrc = s.regs.chCrc ∧
      t.regs.crcAcc = crcFold fullTable (if init then crcSeed else s.regs.crcAcc) (s.mem.readBytes p.1.toNat p.2.toNat) ∧
      t.crcRes = if final then ~~~t.regs.crcAcc else s.crcRes := by
  have hset : (s.setCrcRange p).Ready := ⟨h.idle, h.quiet⟩
  have hbytes : ((s.setCrcRange p).accept (encode (crcInstr init final))).engineBytes p.1.toNat p.2.toNat =
      s.mem.readBytes p.1.toNat p.2.toNat := hset.engineBytes_accept _ _ _
  have htable : s.table = fullTable := h.idle.2.2
  have he : (s.setCrcRange p).issue (crcInstr init final) = _ :=
    (exec_crcInstr init final _).trans (execCrcForm_of_usable _ init final hr hu)
  obtain ⟨hready, hplat⟩ := hset.issue he
  refine ⟨_, he, hready, hplat, rfl, rfl, rfl, ?_, rfl⟩
  rw [← hbytes, ← htable]
  rfl

/-- The parts after the first go on with the fold, and the last shows its complement (R107). -/
theorem crcRest_eq {ps : List (Word × Word)} (hne : ps ≠ []) {s : State} (h : s.Ready)
    (hps : ∀ q ∈ ps, q.1.toNat + q.2.toNat ≤ 2 ^ 32 ∧ s.Usable q.1.toNat q.2.toNat) :
    ∃ t, crcRest ps s = some t ∧ t.crcRes = ~~~(crcFold fullTable s.regs.crcAcc (bytesOf s.mem ps)) ∧ t.mem = s.mem ∧
      t.regs.chCrc = s.regs.chCrc := by
  induction ps generalizing s with
  | nil => exact absurd rfl hne
  | cons p ps ih =>
    obtain ⟨hr, hu⟩ := hps p List.mem_cons_self
    cases ps with
    | nil =>
      obtain ⟨t, he, -, -, hok, hmem, hcrc, hacc, hres⟩ := h.issue_crc false true hr hu
      have he' : (s.setCrcRange p).issue .crcF = .next t := he
      refine ⟨t, by simp [crcRest, he', hok], ?_, hmem, hcrc⟩
      rw [hres, hacc]
      simp [bytesOf]
    | cons q ps =>
      obtain ⟨t, he, hready, hplat, hok, hmem, hcrc, hacc, -⟩ := h.issue_crc false false hr hu
      have he' : (s.setCrcRange p).issue .crc = .next t := he
      obtain ⟨u, hrest, hres, hmem', hcrc'⟩ := ih (by simp) hready fun r hm =>
        have hq := hps r (List.mem_cons_of_mem _ hm)
        ⟨hq.1, hq.2.of_platform hplat⟩
      refine ⟨u, by simp [crcRest, he', hok, hrest], ?_, hmem'.trans hmem, hcrc'.trans hcrc⟩
      rw [hres, hmem, hacc, if_neg Bool.false_ne_true, ← crcFold_append]
      rfl

/-- Settles O37: the first part starts the fold, and the rest go on with it. -/
theorem chainedCrcEqualsWhole : Obligations.ChainedCrcEqualsWhole := by
  intro s p ps hi hq hne hps
  obtain ⟨hr, hu⟩ := hps p List.mem_cons_self
  obtain ⟨t, he, hready, hplat, hok, hmem, hcrc, hacc, -⟩ := State.Ready.issue_crc ⟨hi, hq⟩ true false hr hu
  have he' : (s.setCrcRange p).issue .crcI = .next t := he
  obtain ⟨u, hrest, hres, hmem', hcrc'⟩ := crcRest_eq hne hready fun r hm =>
    have hr := hps r (List.mem_cons_of_mem _ hm)
    ⟨hr.1, hr.2.of_platform hplat⟩
  refine ⟨u, by simp [crcParts, he', hok, hrest], ?_, fun x => by rw [hmem', hmem], hcrc'.trans hcrc⟩
  rw [hres, hmem, hacc, if_pos rfl, ← crcFold_append]
  rfl

end Sys2Proof.Machine
end

section
/-! The chunk framer's other results: SIGCHK, the errors of PARSE, EMITSIG and MKCHUNK, verification, and what EMITSIG and EMIT
leave in memory (41_chunk_framer.md). -/

namespace Sys2Proof.Machine

theorem byteAt_eq_getElem {bs : List Byte} {k : Nat} (h : k < bs.length) : byteAt bs k = bs[k] :=
  List.getD_eq_getElem _ _ h

/-! ## SIGCHK -/

section Sigchk

variable {s : State}

theorem execSigchk_of_range (hr : 2 ^ 32 < s.operands.regs.srcBase.toNat + s.operands.regs.srcLen.toNat) :
    execSigchk s = .next (s.raise .sigchk .range) := by
  simp [execSigchk, (rangeOK_eq_false_iff _ _).2 hr]

theorem execSigchk_of_short (hr : s.operands.regs.srcBase.toNat + s.operands.regs.srcLen.toNat ≤ 2 ^ 32)
    (h8 : s.operands.regs.srcLen.toNat < 8) : execSigchk s = .next (s.sigchkResult false) := by
  simp [execSigchk, (rangeOK_iff _ _).2 hr, h8]

/-- With 8 bytes SIGCHK reads them (R122). -/
theorem execSigchk_of_long (hr : s.operands.regs.srcBase.toNat + s.operands.regs.srcLen.toNat ≤ 2 ^ 32)
    (h8 : 8 ≤ s.operands.regs.srcLen.toNat) :
    execSigchk s = s.withRead .sigchk s s.operands.regs.srcBase.toNat 8 (fun b => .next (s.sigchkResult (sigokBit b))) := by
  simp only [execSigchk, (rangeOK_iff _ _).2 hr, if_true, if_neg (Nat.not_lt.2 h8)]

end Sigchk

/-- The comparison byte by byte (R122). -/
theorem sigokBit_engineBytes_iff (s : State) (a : Nat) :
    sigokBit (s.engineBytes a 8) = true ↔ ∀ k, k < 8 → s.engineByte (a + k) = byteAt signature k := by
  rw [sigokBit, beq_iff_eq]
  constructor
  · intro h k hk
    rw [← h, byteAt_engineBytes s a 8 hk]
  · intro h
    refine List.ext_getElem (by simp) fun k h1 h2 => ?_
    rw [State.getElem_engineBytes, h k (by simpa using h1), byteAt_eq_getElem]

/-- Settles O38: a short buffer is no container; of a longer one the 8 bytes decide. -/
theorem sigchkComparesTheSignature : Obligations.SigchkComparesTheSignature := by
  intro s o hr hu
  rcases Nat.lt_or_ge o.srcLen.toNat 8 with h8 | h8
  · refine ⟨_, execSigchk_of_short hr h8, ?_, rfl, rfl, rfl, by simp [State.Frame], fun _ => rfl⟩
    have hno : ¬ 8 ≤ o.srcLen.toNat := by omega
    simp [Status.withSigok, Status.completed, hno]
  · refine ⟨_, (execSigchk_of_long hr h8).trans (State.withRead_usable (hu h8) _ _ _), ?_, rfl, rfl, rfl,
      by simp [State.Frame], fun _ => rfl⟩
    exact (sigokBit_engineBytes_iff s _).trans (iff_and_self.2 fun _ => h8)

/-- Settles O39: by the check of the range, and the byte that does not answer. -/
theorem sigchkErrors : Obligations.SigchkErrors := by
  intro s o
  refine ⟨fun hr => ⟨_, execSigchk_of_range hr, rfl, rfl, rfl⟩, fun hr h8 hd ha => ?_⟩
  exact ⟨_, (execSigchk_of_long hr h8).trans (State.withRead_bus hd (Platform.allAnswer_eq_false ha) _ _ _), rfl, rfl, rfl⟩

/-! ## PARSE -/

section ParseErrors

variable {s : State} (hr : s.operands.regs.srcBase.toNat + s.operands.regs.srcLen.toNat ≤ 2 ^ 32)
include hr

theorem execParse_of_header_bus (h8 : 8 ≤ s.parseRem) (hd : s.platform.anyDevice s.operands.regs.srcAddr 8 = false)
    (ha : s.platform.allAnswer s.operands.regs.srcAddr 8 = false) : execParse s = .next (s.raise .parse .bus) := by
  unfold execParse
  rw [if_pos ((rangeOK_iff _ _).2 hr)]
  exact (if_neg (Nat.not_lt.2 h8)).trans (State.withRead_bus hd ha _ _ _)

/-- Where the header answers and the chunk fits, PARSE reads the crc field, and with VERIFY_EN the payload (R127). -/
theorem execParse_of_fits (ht : 12 + s.parseSize ≤ s.parseRem) (hu : s.Usable s.operands.regs.srcAddr 8) :
    execParse s = s.withRead .parse s (s.operands.regs.srcAddr + 8 + s.parseSize) 4 (fun c =>
      if s.operands.verifyEn then
        s.withRead .parse s (s.operands.regs.srcAddr + 8) s.parseSize (fun d =>
          .next (s.parseChunk (s.engineBytes s.operands.regs.srcAddr 8) (be32At c 0)
            (crc32 s.table ((s.engineBytes s.operands.regs.srcAddr 8).drop 4 ++ d) != be32At c 0)))
      else .next (s.parseChunk (s.engineBytes s.operands.regs.srcAddr 8) (be32At c 0) false)) := by
  have h8 : ¬ s.parseRem < 8 := by omega
  have hrest : ¬ s.parseRem - 8 < s.parseSize + 4 := by omega
  unfold execParse
  rw [if_pos ((rangeOK_iff _ _).2 hr)]
  refine (if_neg h8).trans ?_
  rw [State.withRead_usable hu]
  exact if_neg hrest

theorem execParse_of_crc_bus (ht : 12 + s.parseSize ≤ s.parseRem) (hu : s.Usable s.operands.regs.srcAddr 8)
    (hd : s.platform.anyDevice (s.operands.regs.srcAddr + 8 + s.parseSize) 4 = false)
    (ha : s.platform.allAnswer (s.operands.regs.srcAddr + 8 + s.parseSize) 4 = false) :
    execParse s = .next (s.raise .parse .bus) := by
  rw [execParse_of_fits hr ht hu, State.withRead_bus hd ha]

theorem execParse_of_payload_bus (ht : 12 + s.parseSize ≤ s.parseRem) (hu : s.Usable s.operands.regs.srcAddr 8)
    (hc : s.Usable (s.operands.regs.srcAddr + 8 + s.parseSize) 4) (hv : s.operands.verifyEn = true)
    (hd : s.platform.anyDevice (s.operands.regs.srcAddr + 8) s.parseSize = false)
    (ha : s.platform.allAnswer (s.operands.regs.srcAddr + 8) s.parseSize = false) :
    execParse s = .next (s.raise .parse .bus) := by
  rw [execParse_of_fits hr ht hu, State.withRead_usable hc, if_pos hv, State.withRead_bus hd ha]

end ParseErrors

theorem execParse_of_range {s : State} (hr : 2 ^ 32 < s.operands.regs.srcBase.toNat + s.operands.regs.srcLen.toNat) :
    execParse s = .next (s.raise .parse .range) := by
  simp [execParse, (rangeOK_eq_false_iff _ _).2 hr]

/-- PARSE completes with the code c, fail-closed (R134). -/
def State.ParseFails (s : State) (c : ErrCode) : Prop :=
  ∃ t, exec .parse s = .next t ∧ t.status.errcode = c ∧ t.status.stop = true ∧ t.status.crcerr = false ∧ t.regs = s.regs ∧
    s.SameMemory t

theorem State.parseFails_of_raise {s : State} {c : ErrCode} (h : execParse s = .next (s.raise .parse c)) : s.ParseFails c :=
  ⟨_, h, rfl, rfl, rfl, rfl, fun _ => rfl⟩

/-- Settles O42: by the first access that fails. -/
theorem parseErrors : Obligations.ParseErrors := by
  intro s o at0 size failed noAnswer
  have hsize : s.parseSize = size := s.parseSize_eq
  refine ⟨fun hr => s.parseFails_of_raise (execParse_of_range hr), fun hr h8 => ⟨fun ⟨hd, ha⟩ => ?_, fun hu hfit => ?_⟩⟩
  · exact s.parseFails_of_raise (execParse_of_header_bus hr ((s.le_parseRem_iff (by decide)).2 h8) hd ha)
  have ht : 12 + s.parseSize ≤ s.parseRem :=
    (s.le_parseRem_iff (by omega)).2 (by rw [hsize, ← Nat.add_assoc]; exact hfit)
  rw [← hsize]
  refine ⟨fun ⟨hd, ha⟩ => ?_, fun hc hv ⟨hd, ha⟩ => ?_⟩
  · exact s.parseFails_of_raise (execParse_of_crc_bus hr ht hu hd ha)
  · exact s.parseFails_of_raise (execParse_of_payload_bus hr ht hu hc hv hd ha)

/-! ## Verification -/

/-- s with a record in flight whose VERIFY_EN is v. -/
def State.verifying (s : State) (r : CmdRecord) (v : Bool) : State := { s with inflight := some { r with verifyEn := v } }

/-- Any part of a range that answers does. -/
theorem Platform.allAnswer_part {p : Platform} {a n b k : Nat} (h : p.allAnswer a n = true) (h1 : a ≤ b) (h2 : b + k ≤ a + n) :
    p.allAnswer b k = true := by
  rw [Platform.allAnswer_iff] at h ⊢
  intro j hj
  have := h (b - a + j) (by omega)
  rwa [show a + (b - a + j) = b + j by omega] at this

/-- The payload of a chunk that fits lies in the source buffer. -/
theorem State.allAnswer_payload {s : State} (ht : 12 + s.parseSize ≤ s.parseRem)
    (ha : s.platform.allAnswer s.operands.regs.srcBase.toNat s.operands.regs.srcLen.toNat = true) :
    s.platform.allAnswer (s.operands.regs.srcAddr + 8) s.parseSize = true := by
  have hfit := (s.le_parseRem_iff (by omega)).1 ht
  refine Platform.allAnswer_part ha ?_ ?_ <;> unfold OperandRegs.srcAddr <;> omega

/-- u is t but for CRCERR, which is 0 in t (R136). -/
def EqualButCrcerr (t u : State) : Prop :=
  t.status.crcerr = false ∧ u = { t with status := { t.status with crcerr := u.status.crcerr } }

/-- What PARSE with VERIFY_EN does where the chunk fits and its header and crc field answer: CRCERR, or a BUS on the payload
(R136). -/
theorem execParse_verify_cases {s u : State} (hr : s.operands.regs.srcBase.toNat + s.operands.regs.srcLen.toNat ≤ 2 ^ 32)
    (ht : 12 + s.parseSize ≤ s.parseRem) (hu : s.Usable s.operands.regs.srcAddr 8)
    (hc : s.Usable (s.operands.regs.srcAddr + 8 + s.parseSize) 4) (hv : s.operands.verifyEn = true)
    (he : execParse s = .next u) :
    (∃ bad, u = s.parseChunk (s.engineBytes s.operands.regs.srcAddr 8) s.parseCrc bad) ∨
    (u.status.errcode = .bus ∧
      s.platform.allAnswer s.operands.regs.srcBase.toNat s.operands.regs.srcLen.toNat = false) := by
  rw [execParse_of_fits hr ht hu, State.withRead_usable hc, if_pos hv] at he
  rcases State.withRead_cases s .parse s (s.operands.regs.srcAddr + 8) s.parseSize _
    with ⟨-, e⟩ | ⟨-, e⟩ | ⟨-, ha, e⟩ <;> cases e.symm.trans he
  · exact .inl ⟨_, rfl⟩
  · refine .inr ⟨rfl, ?_⟩
    by_contra hall
    simp [s.allAnswer_payload ht (by simpa using hall)] at ha

/-- PARSE without VERIFY_EN and with it: the same outcome but for CRCERR, unless only the payload does not answer (R136). -/
theorem execParse_verifying {s t u : State} {r : CmdRecord} (ht : execParse (s.verifying r false) = .next t)
    (hu : execParse (s.verifying r true) = .next u) :
    EqualButCrcerr t u ∨
    (t.status.crcerr = false ∧ t.status.errcode = .ok ∧ u.status.errcode = .bus ∧
      s.platform.allAnswer r.regs.srcBase.toNat r.regs.srcLen.toNat = false) := by
  have hcase := execParse_case (s.verifying r false)
  rw [ht] at hcase
  cases hcase with
  | range h =>
    cases (execParse_of_range (s := s.verifying r true) ((rangeOK_eq_false_iff _ _).1 h)).symm.trans hu
    exact .inl ⟨rfl, rfl⟩
  | short h h8 =>
    cases (execParse_of_short (s := s.verifying r true) ((rangeOK_iff _ _).1 h) h8).symm.trans hu
    exact .inl ⟨rfl, rfl⟩
  | headerBus h h8 hd ha =>
    cases (execParse_of_header_bus (s := s.verifying r true) ((rangeOK_iff _ _).1 h) h8 hd ha).symm.trans hu
    exact .inl ⟨rfl, rfl⟩
  | truncated h h8 hus hlt =>
    have hlt' : (s.verifying r false).parseRem < 12 + (s.verifying r false).parseSize := by omega
    cases (execParse_of_truncated (s := s.verifying r true) ((rangeOK_iff _ _).1 h) h8 hus hlt').symm.trans hu
    exact .inl ⟨rfl, rfl⟩
  | crcBus h h8 hus hfit hd ha =>
    have hfit' : 12 + (s.verifying r false).parseSize ≤ (s.verifying r false).parseRem := by omega
    cases (execParse_of_crc_bus (s := s.verifying r true) ((rangeOK_iff _ _).1 h) hfit' hus hd ha).symm.trans hu
    exact .inl ⟨rfl, rfl⟩
  | plain h h8 hus hfit hc =>
    have hfit' : 12 + (s.verifying r false).parseSize ≤ (s.verifying r false).parseRem := by omega
    rcases execParse_verify_cases (s := s.verifying r true) ((rangeOK_iff _ _).1 h) hfit' hus hc rfl hu
      with ⟨bad, rfl⟩ | ⟨hbus, hall⟩
    · exact .inl ⟨rfl, rfl⟩
    · exact .inr ⟨rfl, rfl, hbus, hall⟩
  | payloadBus h h8 hus hfit hc hv => cases hv
  | verified h h8 hus hfit hc hv => cases hv

/-- Settles O43: outcomes that are equal but for CRCERR, or codes that differ because the payload does not answer. -/
theorem verifyChangesOnlyCrcerr : Obligations.VerifyChangesOnlyCrcerr := by
  intro s t u r ht hu
  rcases execParse_verifying (s := s) (r := r) ht hu with ⟨hcrc, heq⟩ | ⟨hcrc, hok, hbus, hall⟩
  · rw [heq]
    exact ⟨hcrc, fun _ => rfl, fun _ => ⟨rfl, rfl, rfl, rfl⟩⟩
  · refine ⟨hcrc, fun ha => ?_, fun hcode => ?_⟩
    · rw [hall] at ha
      cases ha
    · rw [hok, hbus] at hcode
      cases hcode

/-! ## MKCHUNK -/

theorem execMkchunk_of_range {s : State} (hr : 2 ^ 32 < s.operands.regs.chDaddr.toNat + s.operands.regs.chDlen.toNat) :
    execMkchunk s = .next (s.raise .mkchunk .range) := by
  simp [execMkchunk, (rangeOK_eq_false_iff _ _).2 hr]

theorem execMkchunk_of_bus {s : State} (hr : s.operands.regs.chDaddr.toNat + s.operands.regs.chDlen.toNat ≤ 2 ^ 32)
    (hd : s.platform.anyDevice s.operands.regs.chDaddr.toNat s.operands.regs.chDlen.toNat = false)
    (ha : s.platform.allAnswer s.operands.regs.chDaddr.toNat s.operands.regs.chDlen.toNat = false) :
    execMkchunk s = .next (s.raise .mkchunk .bus) := by
  unfold execMkchunk
  rw [if_pos ((rangeOK_iff _ _).2 hr), State.withRead_bus hd ha]

/-- Settles O49: by the check of the range, and the byte that does not answer. -/
theorem mkchunkErrors : Obligations.MkchunkErrors := fun _ =>
  ⟨fun hr => ⟨_, execMkchunk_of_range hr, rfl, rfl, fun _ => rfl⟩,
    fun hr hd ha => ⟨_, execMkchunk_of_bus hr hd ha, rfl, rfl, fun _ => rfl⟩⟩

/-! ## EMITSIG -/

/-- EMITSIG completes with the code c (R140, R193). -/
def State.EmitsigFails (s : State) (c : ErrCode) : Prop :=
  ∃ t, exec .emitsig s = .next t ∧ t.status.errcode = c ∧ t.regs = s.regs ∧ (c ≠ .bus → s.SameMemory t) ∧
    s.SameMemoryOutside t s.operands.regs.dstAddr 8

theorem State.emitsigFails_of_check {s : State} {c : ErrCode} (h : emitsigCheck s.operands.regs = some c) :
    s.EmitsigFails c :=
  ⟨s.raise .emitsig c, by simp [exec, execEmitsig, h], rfl, rfl, fun _ _ => rfl, fun _ _ => rfl⟩

theorem State.emitsigFails_bus {s : State} (hn : emitsigCheck s.operands.regs = none)
    (hd : s.platform.anyDevice s.operands.regs.dstAddr 8 = false)
    (ha : s.platform.allAnswer s.operands.regs.dstAddr 8 = false) : s.EmitsigFails .bus := by
  have he : exec .emitsig s = .next ((s.scramble s.operands.regs.dstAddr 8).raise .emitsig .bus) := by
    simp [exec, execEmitsig, hn, State.withWrite, hd, ha]
  exact ⟨_, he, rfl, rfl, fun h => absurd rfl h, fun _ => s.read_scramble_of_outside _ _⟩

/-- Settles O45: by the check that raises each code, in their order, and the write range that BUS leaves unspecified. -/
theorem emitsigErrors : Obligations.EmitsigErrors := by
  intro s o failed
  refine ⟨fun h => s.emitsigFails_of_check ?_, fun hr => ⟨fun h => s.emitsigFails_of_check ?_, fun hf hd ha => ?_⟩⟩
  · simp [emitsigCheck, o, (rangeOK_eq_false_iff _ _).2 h]
  · have hfits : o.fits 8 = false := by
      rw [← Bool.not_eq_true, OperandRegs.fits_iff]
      omega
    simp [emitsigCheck, o, (rangeOK_iff _ _).2 hr, hfits]
  · exact s.emitsigFails_bus ((emitsigCheck_none_iff o).2 ⟨hr, hf⟩) hd ha

/-! ## What a store leaves -/

/-- The bytes of an Engine store stand in memory, those that are settled (R65, R75). -/
theorem State.stored_engineStore {s : State} (hm : s.mem.wf) (a : Nat) (bs : List Byte) :
    s.Stored (s.engineStore a bs) a bs := by
  intro k hk hs
  rw [State.read_engineStore_inside hm a bs hk, hs, byteAt_eq_getElem hk]
  rfl

/-- The write cursor after n bytes that fit does not wrap (R140, R143). -/
theorem OperandRegs.toNat_dstCur_advanced {o : OperandRegs} {n : Nat} (h : o.dstCur.toNat + n ≤ o.dstLen.toNat) :
    (BitVec.ofNat 32 (o.dstCur.toNat + n)).toNat = o.dstCur.toNat + n :=
  Nat.mod_eq_of_lt (Nat.lt_of_le_of_lt h o.dstLen.isLt)

theorem execEmitsig_of_usable {s : State} (hn : emitsigCheck s.operands.regs = none)
    (hu : s.Usable s.operands.regs.dstAddr 8) :
    execEmitsig s = .next ((s.engineStore s.operands.regs.dstAddr signature).advanceDst 8).finish := by
  simp only [execEmitsig, hn]
  exact State.withWrite_usable (bs := signature) hu _ _

/-- Settles O44: by the store of the 8 bytes. -/
theorem emitsigWritesTheSignature : Obligations.EmitsigWritesTheSignature := by
  intro s hm o hr hf hu
  exact ⟨_, execEmitsig_of_usable ((emitsigCheck_none_iff o).2 ⟨hr, hf⟩) hu, State.stored_engineStore hm _ signature,
    fun _ => s.read_engineStore_of_outside _ signature, rfl, OperandRegs.toNat_dstCur_advanced hf, rfl, rfl,
    by simp [State.Frame]⟩

/-- The bytes that EMIT writes (R143). -/
def State.emitBytes (s : State) : List Byte :=
  chunkBytes s.operands.regs.chSize s.operands.regs.chType s.operands.regs.chCrc
    (s.engineBytes s.operands.regs.chDaddr.toNat s.operands.regs.chSize.toNat)

@[simp] theorem State.emitBytes_length (s : State) : s.emitBytes.length = s.operands.regs.emitLength := by
  simp [State.emitBytes, OperandRegs.emitLength]

theorem execEmit_of_usable {s : State} (hn : emitCheck s.operands.regs = none)
    (hr : s.Usable s.operands.regs.chDaddr.toNat s.operands.regs.chSize.toNat)
    (hw : s.Usable s.operands.regs.dstAddr s.operands.regs.emitLength) :
    execEmit s =
      .next ((s.engineStore s.operands.regs.dstAddr s.emitBytes).advanceDst s.operands.regs.emitLength).finish := by
  simp only [execEmit, hn]
  refine (if_neg (by simp [hw.2])).trans ((State.withRead_usable hr _ _ _).trans ?_)
  exact State.withWrite_usable (bs := s.emitBytes) (by rwa [State.emitBytes_length]) _ _

/-- Settles O46: by the store of the chunk's bytes, once every check passes. -/
theorem emitWritesTheChunk : Obligations.EmitWritesTheChunk := by
  intro s hm o n hd hp hs hf hclear hur huw
  have hn : emitCheck o = none :=
    (emitCheck_none_iff o).2 ⟨hd, hp, hs, hf, (OperandRegs.overlaps_eq_false_iff o).2 hclear⟩
  refine ⟨_, execEmit_of_usable hn hur huw, State.stored_engineStore hm _ s.emitBytes, fun x hx => ?_, rfl,
    OperandRegs.toNat_dstCur_advanced hf, rfl, rfl, by simp [State.Frame]⟩
  exact s.read_engineStore_of_outside _ s.emitBytes (by rwa [State.emitBytes_length])

end Sys2Proof.Machine
end

section
/-! Memory between the Engine and the agents: what each reads, what races and waiting stores leave open, and when a write
becomes visible (20_memory.md sections 2 and 5, 70_reset_and_hazards.md section 3). -/

namespace Sys2Proof.Machine

/-! ## What the Engine reads -/

/-- Without a race, and where no Engine write has met a waiting store, the Engine reads M[a] or a byte that waits (R73). -/
theorem State.engineByte_of_unraced {s : State} {a : Nat} (hr : s.raced = []) (hc : a ∉ s.contested) :
    s.engineByte a = pickByte (Config.freeChoice s.draws a) (s.mem.read a) (cellsAt s.dirty a) := by
  unfold State.engineByte
  split
  · next h => simp [hr] at h
  · split
    · next h => rw [h, pickByte_nil]
    · next h => simp [h, hc]

theorem State.engineByte_of_raced {s : State} {a : Nat} (h : a ∈ s.raced) : s.engineByte a = Config.freeByte s.draws a := by
  simp [State.engineByte, h]

/-- Where an Engine write has met a waiting store the Engine reads a free byte. -/
theorem State.engineByte_of_contested {s : State} {a : Nat} (hd : cellsAt s.dirty a ≠ []) (hc : a ∈ s.contested) :
    s.engineByte a = Config.freeByte s.draws a := by
  unfold State.engineByte
  split
  · rfl
  · split
    · next h => exact absurd h hd
    · simp [hc]

theorem mem_cellsAt_putCell_self (cs : List Host.Cell) (a : Nat) (v : Byte) : v ∈ cellsAt (putCell cs a v) a := by
  simp [cellsAt_putCell_self]

/-- A store keeps the others that wait at its address. -/
theorem mem_cellsAt_putCell {cs : List Host.Cell} {a : Nat} {v : Byte} (h : v ∈ cellsAt cs a) (w : Byte) :
    v ∈ cellsAt (putCell cs a w) a := by
  rw [cellsAt_putCell_self]
  by_cases hv : v = w <;> simp [hv, h]

/-- While a command is in flight an access races at its address (R75). -/
theorem State.mem_raceList {s : State} (h : s.inflight.isSome = true) (a : Nat) : a ∈ s.raceList a := by
  unfold State.raceList
  split
  · exact List.mem_cons_self
  · next hn => simpa [h] using hn

/-- Settles O50: by the races and the waiting stores, that two stores leave and that one store during a command leaves. -/
theorem engineReadsMemoryUnlessRaced : Obligations.EngineReadsMemoryUnlessRaced := by
  intro s a
  refine ⟨fun h => State.engineByte_of_quiet h a, fun hr hc => ?_, ?_, fun v hi => ?_⟩
  · rw [State.engineByte_of_unraced hr hc]
    exact pickByte_cases _ _ _
  · intro v w hr hi hco t
    have hdirty : t.dirty = putCell (putCell s.dirty a v) a w := by simp [t, hco]
    have hraced : t.raced = [] :=
      (State.raceList_of_idle (s := s.hostStore a v) hi a).trans ((State.raceList_of_idle hi a).trans hr)
    have hmem : t.mem = s.mem := by simp [t, hco]
    have hcon : a ∉ t.contested := fun h => (State.mem_hostStore_contested.1 h).2 rfl
    refine ⟨?_, ?_, ?_⟩
    · rw [hdirty]
      exact mem_cellsAt_putCell (mem_cellsAt_putCell_self _ _ _) w
    · rw [hdirty]
      exact mem_cellsAt_putCell_self _ _ _
    · rw [State.engineByte_of_unraced hraced hcon, hmem]
      rfl
  · exact State.engineByte_of_raced (s := s.hostStore a v) (State.mem_raceList hi a)

/-! ## Races with the write set -/

/-- A byte of the write set that another agent has raced with is free once the command completes, with a store or with BUS
(R75). -/
theorem NextCase.read_raced {i : Instr} {s t : State} (h : NextCase s i t) (hm : s.mem.wf) {x : Nat} (hx : x ∈ s.raced)
    (hw : inRange (writeSetOf i s.operands.regs).1 (writeSetOf i s.operands.regs).2 x = true) :
    t.mem.read x = Config.freeByte s.draws x := by
  rcases h.memory with ⟨hn, -, -⟩ | ⟨a, bs, hs, e, -⟩ | ⟨a, n, hs, e, -⟩
  · simp [hn, inRange] at hw
  · rw [hs, inRange_iff] at hw
    obtain ⟨k, rfl⟩ := Nat.exists_eq_add_of_le hw.1
    have hk : k < bs.length := by omega
    rw [e, State.read_engineStore_inside hm a bs hk, if_pos (by simp [State.unsettled, hx])]
  · rw [hs, inRange_iff] at hw
    rw [e, State.read_scramble_inside hm a n hw.1 hw.2]

/-- Settles O51: the load, and the store, race at x, so the write of the command leaves a free byte there. -/
theorem racedWriteSetByteIsFree : Obligations.RacedWriteSetByteIsFree := by
  intro s t r x hm hr hw
  have hsome : s.inflight.isSome = true := by simp [hr]
  have hset : inRange (writeSetOf (decode r.word) s.operands.regs).1 (writeSetOf (decode r.word) s.operands.regs).2 x =
      true := by
    rw [State.operands_of_inflight hr]
    exact (inRange_iff _ _ _).2 ((State.inWriteSet_iff hr x).1 hw)
  refine ⟨fun k => by simp [State.hostByte, hw], fun he => ?_, fun v he => ?_⟩
  · have hraced : x ∈ (s.afterLoad x).raced := by
      rw [State.afterLoad_raced, if_pos hw]
      exact State.mem_raceList hsome x
    exact (exec_nextCase he).read_raced hm hraced hset
  · exact (exec_nextCase he).read_raced (State.hostStore_mem_wf hm x v) (State.mem_raceList hsome x) hset

/-! ## An agent's own accesses -/

theorem State.hostAccess_next {s : State} {a : Nat} (hd : s.platform.isDevice a = false) (ha : s.platform.answers a = true)
    (t : State) : s.hostAccess a t = .next t := by
  simp [State.hostAccess, hd, ha]

/-- Settles O52: by what the platform does with the address. -/
theorem agentsAccessMemoryDirectly : Obligations.AgentsAccessMemoryDirectly := by
  intro s k h a v hk hm
  refine ⟨fun hd ha => ⟨?_, fun hc => ?_⟩, fun hd ha => ?_, fun hd => ?_⟩
  · exact ⟨_, _, State.hostAccess_next hd ha _, State.updAgent_agents_self (s := s.afterLoad a.toNat) hk _, rfl, rfl, rfl,
      fun _ => rfl⟩
  · refine ⟨_, State.hostAccess_next hd ha _, ?_, fun x hx => ?_, fun _ => rfl⟩
    · simp [hc, Memory.read_write_self hm]
    · simp [hc, Memory.read_write_ne _ _ hx]
  · simp [State.runLine, State.hostAccess, hd, ha]
  · simp [State.runLine, State.hostAccess, hd]

/-! ## Stores that become visible -/

/-- What a clean leaves in M where the newest store waits and nothing contests it (R79). -/
theorem State.read_hostClean {s : State} (hm : s.mem.wf) {a b n : Nat} (hr : inRange b n a = true) {v : Byte} {vs : List Byte}
    (hd : cellsAt s.dirty a = v :: vs) (hc : a ∉ s.contested) : (s.hostClean b n).mem.read a = v := by
  rw [State.hostClean, State.read_settle hm, if_pos ⟨hr, by simp [hd]⟩]
  simp [State.cleanByte, hc, hd]

theorem State.settle_unseen {s : State} (hm : s.mem.wf) (a n : Nat) (f : Nat → Byte) : (s.settle a n f).unseen = s.unseen := by
  rw [State.settle_eq hm]

/-- After a settling the Engine reads M in its range, where nothing races. -/
theorem State.engineByte_settle {s : State} (hm : s.mem.wf) {a b n : Nat} (hr : inRange b n a = true) (hi : s.inflight = none)
    (hraced : s.raced = []) (f : Nat → Byte) : (s.settle b n f).engineByte a = (s.settle b n f).mem.read a := by
  have hdirty : cellsAt (s.settle b n f).dirty a = [] := cellsAt_filter_outside hr
  have hraced' : (s.settle b n f).raced = [] := ((State.settle_facts hm b n f).2 hi).trans hraced
  simp [State.engineByte, hraced', hdirty]

/-- Settles O53: in M at once, or from the clean on. -/
theorem cleanedStoresAreVisible : Obligations.CleanedStoresAreVisible := by
  intro s a v h hi
  refine ⟨fun hc => ?_, fun hc b n h1 h2 => ?_⟩
  · obtain ⟨hdirty, -, -⟩ := h.coherentClean hc
    have hquiet : (s.hostStore a v).Quiet := ⟨State.raceList_of_inv h hi a, by simp [hc, hdirty]⟩
    rw [State.engineByte_of_quiet hquiet]
    simp [hc, Memory.read_write_self h.memWf]
  · have hr : inRange b n a = true := (inRange_iff _ _ _).2 ⟨h1, h2⟩
    have hm : (s.hostStore a v).mem.wf := State.hostStore_mem_wf h.memWf a v
    have hcon : a ∉ (s.hostStore a v).contested := fun h' => (State.mem_hostStore_contested.1 h').2 rfl
    have hdirty : cellsAt (s.hostStore a v).dirty a = v :: (cellsAt s.dirty a).filter (fun w => w != v) := by
      simp [hc, cellsAt_putCell_self]
    rw [State.hostClean, State.engineByte_settle hm hr hi (State.raceList_of_inv h hi a)]
    exact State.read_hostClean hm hr hdirty hcon

/-- With no command in flight no address is in a write set. -/
theorem State.inWriteSet_of_idle {s : State} (h : s.inflight = none) (a : Nat) : s.inWriteSet a = false := by
  simp [State.inWriteSet, h]

/-- On a coherent platform an agent that has observed every completion loads M[a] (R74, R79). -/
theorem State.Inv.hostByte_observed {s : State} (h : s.Inv) (hi : s.inflight = none) (hc : s.platform.coherent = true)
    (k a : Nat) : (s.observe k).hostByte k a = s.mem.read a := by
  obtain ⟨hdirty, -, hstale⟩ := h.coherentClean hc
  exact State.hostByte_of_seen (s := s.observe k) (by simp [hdirty, cellsAt]) (by simp [hstale, cellsAt])
    (s.unseenBy_observe k a) (State.inWriteSet_of_idle hi a)

/-- An invalidation by an agent that has observed every completion leaves no old copy in its range. -/
theorem State.cellsAt_stale_hostInvalidate {s : State} {k a b n : Nat} (hr : inRange b n a = true)
    (hu : ∀ x, s.unseenBy k x = []) : cellsAt (s.hostInvalidate k b n).stale a = [] := by
  refine cellsAt_eq_nil fun c hc => ?_
  rintro rfl
  simp [State.hostInvalidate_eq, hr, hu] at hc

/-- Settles O54: by what the invalidation leaves in M and in the caches. -/
theorem invalidatedLoadsAreFresh : Obligations.InvalidatedLoadsAreFresh := by
  intro s k a h hi
  refine ⟨fun hc => h.hostByte_observed hi hc k a, fun b n h1 h2 => ?_⟩
  intro t
  have hr : inRange b n a = true := (inRange_iff _ _ _).2 ⟨h1, h2⟩
  have hdirty : cellsAt t.dirty a = [] := cellsAt_filter_outside hr
  have hunseen : t.unseenBy k a = [] := by
    have hu : t.unseen = (s.observe k).unseen := State.settle_unseen (s := s.observe k) h.memWf b n _
    rw [State.unseenBy, hu]
    exact s.unseenBy_observe k a
  have hidle : t.inflight = none := (State.settle_inflight (s := s.observe k) h.memWf b n _).trans hi
  have hread : t.mem.read a = if cellsAt s.dirty a ≠ [] then s.engineByte a else s.mem.read a := by
    refine (State.read_settle (s := s.observe k) h.memWf b n _ a).trans ?_
    simp only [hr, true_and]
    rfl
  refine ⟨State.hostByte_of_seen hdirty (State.cellsAt_stale_hostInvalidate hr fun x => s.unseenBy_observe k x) hunseen
    (State.inWriteSet_of_idle hidle a), fun hn => ?_, fun hc => ?_⟩
  · rw [hread, if_neg (not_not.2 hn)]
  · rw [hread]
    split
    · rw [State.engineByte_of_unraced (h.racedInFlight hi) hc]
      exact pickByte_cases _ _ _
    · exact .inl rfl

/-! ## When the Engine's writes are seen -/

theorem State.mem_unseenBy {s : State} {k a : Nat} {v : Byte} : v ∈ s.unseenBy k a ↔ ⟨k, a, v⟩ ∈ s.unseen := by
  simp only [State.unseenBy, List.mem_map, List.mem_filter, Bool.and_eq_true, beq_iff_eq]
  constructor
  · rintro ⟨u, ⟨hu, rfl, rfl⟩, rfl⟩
    exact hu
  · exact fun h => ⟨_, ⟨h, rfl, rfl⟩, rfl⟩

/-- An Engine write leaves each agent the byte it replaced (R74). -/
theorem State.mem_unseenAfter {s : State} {k a n x : Nat} (hk : k < s.agents.length) (h1 : a ≤ x) (h2 : x < a + n) :
    ⟨k, x, s.mem.read x⟩ ∈ s.unseenAfter a n := by
  refine List.mem_append_right _ (List.mem_flatMap.2 ⟨k, List.mem_range.2 hk, List.mem_map.2 ⟨(x, s.mem.read x), ?_, rfl⟩⟩)
  obtain ⟨j, rfl⟩ := Nat.exists_eq_add_of_le h1
  exact List.mem_map.2 ⟨j, List.mem_range.2 (by omega), rfl⟩

/-- A byte that a command changes is one that each agent may still see as it was (R74, R230). -/
theorem NextCase.old_byte_unseen {i : Instr} {s t : State} (h : NextCase s i t) {k x : Nat} (hk : k < s.agents.length)
    (hx : t.mem.read x ≠ s.mem.read x) : s.mem.read x ∈ t.unseenBy k x := by
  have hrange : ∀ a n, s.SameMemoryOutside t a n → a ≤ x ∧ x < a + n := by
    intro a n hs
    by_contra hn
    exact hx (hs x (by omega))
  rw [State.mem_unseenBy]
  rcases h.memory with ⟨-, e, -⟩ | ⟨a, bs, -, e, hu⟩ | ⟨a, n, -, e, hu⟩
  · exact absurd (by rw [e]) hx
  · obtain ⟨h1, h2⟩ := hrange a bs.length fun y hy => by rw [e, s.read_engineStore_of_outside a bs hy]
    rw [hu]
    exact State.mem_unseenAfter hk h1 h2
  · obtain ⟨h1, h2⟩ := hrange a n fun y hy => by rw [e, s.read_scramble_of_outside a n hy]
    rw [hu]
    exact State.mem_unseenAfter hk h1 h2

/-- On a coherent platform, with no command in flight, a load gives M[a] or an old byte that the agent may still see (R74). -/
theorem State.Inv.hostByte_coherent {s : State} (h : s.Inv) (hi : s.inflight = none) (hc : s.platform.coherent = true)
    (k a : Nat) : s.hostByte k a = s.mem.read a ∨ s.hostByte k a ∈ s.unseenBy k a := by
  obtain ⟨hdirty, -, hstale⟩ := h.coherentClean hc
  have hbyte : s.hostByte k a = pickByte (Config.freeChoice s.draws a) (s.mem.read a) (s.unseenBy k a) := by
    simp [State.hostByte, State.inWriteSet_of_idle hi, hdirty, hstale, cellsAt]
  rw [hbyte]
  exact pickByte_cases _ _ _

/-- Reading STATUS, by `rd` or by `wait`, changes the agents and what this one has observed (R74, R93). -/
theorem State.runLine_statusRead (s : State) (k : Nat) (h : HostAgent) {l : HostLine} (hl : l = .rd .STATUS ∨ l = .wait) :
    ∃ as, s.runLine k h l = .next { s.statusRead k with agents := as } := by
  rcases hl with rfl | rfl
  · have he := s.portReadBy_regAddr k .STATUS
    rw [← State.observedAt_eq, if_pos rfl] at he
    exact ⟨_, he⟩
  · simp only [State.runLine]
    split <;> exact ⟨_, rfl⟩

theorem State.statusRead_of_completed {s : State} (hb : s.status.busy = false) (k : Nat) : s.statusRead k = s.observe k := by
  simp [State.statusRead, hb]

theorem State.statusRead_of_running {s : State} (hb : s.status.busy = true) (hd : s.status.done = false) (k : Nat) :
    s.statusRead k = s := by
  simp [State.statusRead, hb, hd]

/-- Settles O55: by the old bytes an Engine write leaves to each agent, and the reads that observe a completion. -/
theorem completionMustBeObserved : Obligations.CompletionMustBeObserved := by
  refine ⟨fun i s t k x he hk hx => (exec_nextCase he).old_byte_unseen hk hx, fun s k h hs hi hc =>
    ⟨hs.hostByte_coherent hi hc k, fun hb l hl => ?_, fun line hline => ?_⟩, fun s k h hb hd l hl => ?_⟩
  · obtain ⟨as, he⟩ := s.runLine_statusRead k h hl
    rw [State.statusRead_of_completed hb] at he
    exact ⟨_, he, hs.hostByte_observed hi hc k⟩
  · exact ⟨_, congrArg Host.Outcome.next (if_pos hline), hs.hostByte_observed hi hc k⟩
  · obtain ⟨as, he⟩ := s.runLine_statusRead k h hl
    rw [State.statusRead_of_running hb hd] at he
    exact ⟨_, he, rfl⟩

/-! ## Where an Engine write meets a waiting store -/

/-- Every address of an Engine write at which a store waits is contested afterwards. -/
theorem State.mem_contestedAfter {s : State} {a b n : Nat} (h1 : b ≤ a) (h2 : a < b + n) (hd : cellsAt s.dirty a ≠ []) :
    a ∈ s.contestedAfter b n := by
  obtain ⟨j, rfl⟩ := Nat.exists_eq_add_of_le h1
  by_cases hc : b + j ∈ s.contested
  · exact List.mem_append_left _ hc
  · refine List.mem_append_right _ (List.mem_filter.2 ⟨List.mem_map.2 ⟨j, List.mem_range.2 (by omega), rfl⟩, ?_⟩)
    simp [hd, hc]

/-- Where a store waits and an Engine write has met it, an agent's load gives a free byte. -/
theorem State.hostByte_of_contested {s : State} {a : Nat} (hd : cellsAt s.dirty a ≠ []) (hc : a ∈ s.contested) (k : Nat) :
    s.hostByte k a = Config.freeByte s.draws a := by
  unfold State.hostByte
  split
  · rfl
  · split
    · simp [hc]
    · next h => exact absurd h hd

/-- Settles O56: the byte is unsettled when the Engine writes it, and contested from then on. -/
theorem engineWriteOverUncleanedStoreIsFree : Obligations.EngineWriteOverUncleanedStoreIsFree := by
  intro s a b bs hm hraced hd h1 h2 t
  have hcon : a ∈ t.contested := by
    rw [State.engineStore_contested]
    exact State.mem_contestedAfter h1 h2 hd
  have hm' : t.mem.wf := State.engineStore_mem_wf hm b bs
  have hread : t.mem.read a = Config.freeByte s.draws a := by
    obtain ⟨k, rfl⟩ := Nat.exists_eq_add_of_le h1
    rw [State.read_engineStore_inside hm b bs (by omega), if_pos (by simp [State.unsettled, hd])]
  have hengine : t.engineByte a = Config.freeByte s.draws a := State.engineByte_of_contested (s := t) hd hcon
  have hsettle : ∀ (f : Nat → Byte) (c n : Nat), c ≤ a → a < c + n → (t.settle c n f).mem.read a = f a := by
    intro f c n h3 h4
    rw [State.read_settle hm', if_pos ⟨(inRange_iff _ _ _).2 ⟨h3, h4⟩, hd⟩]
  refine ⟨hread, hengine, fun k => State.hostByte_of_contested (s := t) hd hcon k, fun c n h3 h4 => ⟨?_, fun k => ?_⟩⟩
  · rw [State.hostClean, hsettle _ c n h3 h4]
    exact if_pos (by simpa using hcon)
  · exact (hsettle t.dropByte c n h3 h4).trans hengine

end Sys2Proof.Machine
end

section
/-! The Host loops: PARSE repeated is the source's split, EMITSIG and the EMITs are its join, and the one undoes the other
(41_chunk_framer.md sections 1, 3 and 5). -/

namespace Sys2Proof.Machine

/-! ## split on byte sequences -/

@[simp] theorem chunksLength_cons (c : Chunk) (cs : List Chunk) : chunksLength (c :: cs) = c.length + chunksLength cs := by
  simp [chunksLength]

theorem byteAt_readBytes (m : Memory) (a : Nat) {n k : Nat} (h : k < n) : byteAt (m.readBytes a n) k = m.read (a + k) := by
  rw [byteAt_eq_getElem (by simpa using h), Memory.getElem_readBytes]

/-- Four bytes of a range, decoded, whatever the range's length (R60). -/
theorem be32At_readBytes (m : Memory) (a : Nat) {n k : Nat} (h : k + 4 ≤ n) :
    be32At (m.readBytes a n) k =
      be32 (m.read (a + k)) (m.read (a + (k + 1))) (m.read (a + (k + 2))) (m.read (a + (k + 3))) := by
  unfold be32At
  rw [byteAt_readBytes _ _ (by omega), byteAt_readBytes _ _ (by omega), byteAt_readBytes _ _ (by omega),
    byteAt_readBytes _ _ (by omega)]

/-- The chunk at the start of a byte sequence (R127). -/
def headChunk (bs : List Byte) : Chunk where
  size := be32At bs 0
  type := be32At bs 4
  data := (bs.drop 8).take (be32At bs 0).toNat
  crc := be32At bs (8 + (be32At bs 0).toNat)

@[simp] theorem headChunk_length (bs : List Byte) : (headChunk bs).length = 12 + (be32At bs 0).toNat := rfl

/-- No whole chunk stands at the start of the bytes: a header is missing, or what follows it is too short (R128, R130). -/
def Exhausted (bs : List Byte) : Prop := bs.length < 8 ∨ bs.length < (be32At bs 0).toNat + 12

theorem splitFrom_of_exhausted {bs : List Byte} (h : Exhausted bs) (fuel : Nat) : splitFrom fuel bs = [] := by
  cases fuel with
  | zero => rfl
  | succ fuel =>
    unfold splitFrom
    split
    · rfl
    · next h8 =>
      refine if_pos ?_
      unfold Exhausted at h
      omega

theorem splitFrom_of_chunk {bs : List Byte} (h : ¬ Exhausted bs) (fuel : Nat) :
    splitFrom (fuel + 1) bs = headChunk bs :: splitFrom fuel (bs.drop (headChunk bs).length) := by
  unfold Exhausted at h
  have hfits : ¬ bs.length - 8 < (be32At bs 0).toNat + 4 := by omega
  rw [splitFrom, if_neg (by omega)]
  exact if_neg hfits

/-- A chunk's bytes are the bytes it was found in (R60, R85, R86). -/
theorem headChunk_bytes {bs : List Byte} (h : ¬ Exhausted bs) : (headChunk bs).bytes = bs.take (headChunk bs).length := by
  unfold Exhausted at h
  have hsize : be32enc (be32At bs 0) = bs.take 4 := be32enc_be32At bs 0 (by omega)
  have htype : tagBytes (be32At bs 4) = (bs.drop 4).take 4 := be32enc_be32At bs 4 (by omega)
  have hcrc := be32enc_be32At bs (8 + (be32At bs 0).toNat) (by omega)
  have hlen : (headChunk bs).length = 4 + 4 + (be32At bs 0).toNat + 4 := by
    rw [headChunk_length]
    omega
  rw [hlen, List.take_add, List.take_add, List.take_add, Chunk.bytes, chunkBytes, headChunk, hsize, htype, hcrc]

/-- The chunks found, joined, are the bytes they were found in (R149, R151). -/
theorem flatMap_bytes_splitFrom (fuel : Nat) (bs : List Byte) :
    (splitFrom fuel bs).flatMap Chunk.bytes = bs.take (chunksLength (splitFrom fuel bs)) := by
  induction fuel generalizing bs with
  | zero => rfl
  | succ fuel ih =>
    by_cases h : Exhausted bs
    · rw [splitFrom_of_exhausted h]
      rfl
    · rw [splitFrom_of_chunk h, List.flatMap_cons, ih, headChunk_bytes h, chunksLength_cons, List.take_add]

/-- Joining the split of a container without trailing bytes gives it back (R151). -/
theorem joinBytes_splitBytes {bs : List Byte} (hsig : bs.take 8 = signature)
    (hlen : 8 + chunksLength (splitBytes bs) = bs.length) : joinBytes (splitBytes bs) = bs := by
  have hall : (bs.drop 8).take (chunksLength (splitBytes bs)) = bs.drop 8 :=
    List.take_of_length_le (by rw [List.length_drop]; omega)
  rw [joinBytes, splitBytes, flatMap_bytes_splitFrom, ← splitBytes, hall, ← hsig, List.take_append_drop]

/-! ## The PARSE loop -/

/-- The bytes of the source buffer from the cursor on. -/
def State.restBytes (s : State) : List Byte :=
  s.mem.readBytes s.regs.srcAddr (remaining s.regs.srcCur.toNat s.regs.srcLen.toNat)

/-- The source buffer is in range and of ordinary memory that answers (R62, R63). -/
structure State.SourceOk (s : State) : Prop where
  range : s.regs.srcBase.toNat + s.regs.srcLen.toNat ≤ 2 ^ 32
  usable : s.Usable s.regs.srcBase.toNat s.regs.srcLen.toNat

section ParseLoop

variable {s : State}

theorem State.restBytes_length (s : State) :
    s.restBytes.length = remaining s.regs.srcCur.toNat s.regs.srcLen.toNat := by simp [State.restBytes]

theorem State.parseRem_accept (s : State) (w : Word) : (s.accept w).parseRem = s.restBytes.length :=
  s.restBytes_length.symm

/-- A part of the remaining bytes is a usable part of the source. -/
theorem State.SourceOk.usable_rest (h : s.SourceOk) {k n : Nat} (hn : 0 < n) (hk : k + n ≤ s.restBytes.length) :
    s.Usable (s.regs.srcAddr + k) n := by
  rw [State.restBytes_length] at hk
  have hcur : s.regs.srcCur.toNat + (k + n) ≤ s.regs.srcLen.toNat := by
    unfold remaining at hk
    split at hk <;> omega
  refine h.usable.part ?_ ?_ <;> unfold OperandRegs.srcAddr <;> omega

/-- Four bytes of a part of the remaining bytes, decoded. -/
theorem State.be32At_part (s : State) {k n j : Nat} (hj : j + 4 ≤ n) (hk : k + n ≤ s.restBytes.length) :
    be32At (s.mem.readBytes (s.regs.srcAddr + k) n) j = be32At s.restBytes (k + j) := by
  rw [State.restBytes_length] at hk
  rw [be32At_readBytes _ _ hj, State.restBytes, be32At_readBytes _ _ (by omega)]
  simp only [Nat.add_assoc]

/-- A part of the remaining bytes. -/
theorem State.readBytes_part (s : State) {k n : Nat} (hk : k + n ≤ s.restBytes.length) :
    s.mem.readBytes (s.regs.srcAddr + k) n = (s.restBytes.drop k).take n := by
  rw [State.restBytes_length] at hk
  rw [State.restBytes, Memory.readBytes_drop _ _ (by omega), Memory.readBytes_take _ _ (by omega)]

/-- The size that PARSE reads is that of the remaining bytes (R129). -/
theorem State.Ready.parseSize_accept (h : s.Ready) (h8 : 8 ≤ s.restBytes.length) (w : Word) :
    (s.accept w).parseSize = (be32At s.restBytes 0).toNat := by
  have hbytes : (s.accept w).engineBytes s.regs.srcAddr 8 = s.mem.readBytes s.regs.srcAddr 8 := h.engineBytes_accept w _ _
  have hhead : (s.accept w).parseSize = (be32At ((s.accept w).engineBytes s.regs.srcAddr 8) 0).toNat := rfl
  rw [hhead, hbytes]
  exact congrArg BitVec.toNat (s.be32At_part (k := 0) (by decide) (by omega))

/-- PARSE, issued where no whole chunk remains, stops (R128, R130). -/
theorem State.Ready.issue_parse_exhausted (h : s.Ready) (hs : s.SourceOk) (he : Exhausted s.restBytes) :
    s.issue .parse = .next (s.accept (encode .parse)).parseStop := by
  rcases Nat.lt_or_ge s.restBytes.length 8 with h8 | h8
  · exact execParse_of_short (s := s.accept (encode .parse)) hs.range (by rwa [State.parseRem_accept])
  · have hsize := h.parseSize_accept h8 (encode .parse)
    have ht : s.restBytes.length < 12 + (be32At s.restBytes 0).toNat := by
      unfold Exhausted at he
      omega
    exact execParse_of_truncated (s := s.accept (encode .parse)) hs.range (by rwa [State.parseRem_accept])
      (hs.usable_rest (k := 0) (by decide) (by omega)) (by rwa [State.parseRem_accept, hsize])

/-- A recorded chunk lies in the source buffer of s. -/
def State.HoldsPayload (s : State) (c : ChunkRegs) : Prop :=
  s.regs.srcBase.toNat ≤ c.daddr.toNat ∧ c.daddr.toNat + c.size.toNat ≤ s.regs.srcBase.toNat + s.regs.srcLen.toNat

/-- What PARSE commands leave as it was: readiness, memory, and where the buffers are. -/
structure SameBuffers (s t : State) : Prop where
  ready : t.Ready
  platform : t.platform = s.platform
  mem : t.mem = s.mem
  srcBase : t.regs.srcBase = s.regs.srcBase
  srcLen : t.regs.srcLen = s.regs.srcLen
  dstBase : t.regs.dstBase = s.regs.dstBase
  dstLen : t.regs.dstLen = s.regs.dstLen

theorem SameBuffers.trans {t u : State} (h1 : SameBuffers s t) (h2 : SameBuffers t u) : SameBuffers s u where
  ready := h2.ready
  platform := h2.platform.trans h1.platform
  mem := h2.mem.trans h1.mem
  srcBase := h2.srcBase.trans h1.srcBase
  srcLen := h2.srcLen.trans h1.srcLen
  dstBase := h2.dstBase.trans h1.dstBase
  dstLen := h2.dstLen.trans h1.dstLen

theorem SameBuffers.sourceOk {t : State} (h : SameBuffers s t) (hs : s.SourceOk) : t.SourceOk where
  range := by
    rw [h.srcBase, h.srcLen]
    exact hs.range
  usable := by
    rw [h.srcBase, h.srcLen]
    exact hs.usable.of_platform h.platform

/-- What a PARSE that produces a chunk leaves: the chunk recorded, the cursor behind it (R127, R131). -/
structure ParsedOne (s t : State) : Prop where
  same : SameBuffers s t
  stop : t.status.stop = false
  chunk : t.recordChunk.chunk s.mem = headChunk s.restBytes
  inside : s.HoldsPayload t.recordChunk
  cursor : t.regs.srcCur.toNat = s.regs.srcCur.toNat + (headChunk s.restBytes).length
  rest : t.restBytes = s.restBytes.drop (headChunk s.restBytes).length

/-- A chunk that remains ends inside the source (R129). -/
theorem State.cursor_le_of_chunk (he : ¬ Exhausted s.restBytes) :
    s.regs.srcCur.toNat + (headChunk s.restBytes).length ≤ s.regs.srcLen.toNat := by
  have hlen := s.restBytes_length
  unfold Exhausted at he
  rw [headChunk_length]
  unfold remaining at hlen
  split at hlen <;> omega

/-- Behind a chunk that remains, the bytes from the new cursor on are the rest. -/
theorem State.restBytes_of_cursor {t : State} (hm : t.mem = s.mem) (hb : t.regs.srcBase = s.regs.srcBase)
    (hl : t.regs.srcLen = s.regs.srcLen) {n : Nat} (hc : t.regs.srcCur.toNat = s.regs.srcCur.toNat + n)
    (hn : s.regs.srcCur.toNat + n ≤ s.regs.srcLen.toNat) : t.restBytes = s.restBytes.drop n := by
  have h1 : remaining t.regs.srcCur.toNat t.regs.srcLen.toNat = s.regs.srcLen.toNat - s.regs.srcCur.toNat - n := by
    rw [hl, hc, remaining, if_pos hn, Nat.sub_sub]
  have h2 : remaining s.regs.srcCur.toNat s.regs.srcLen.toNat = s.regs.srcLen.toNat - s.regs.srcCur.toNat :=
    if_pos (by omega)
  have haddr : t.regs.srcAddr = s.regs.srcAddr + n := by
    rw [OperandRegs.srcAddr, hb, hc, ← Nat.add_assoc]
    rfl
  rw [State.restBytes, State.restBytes, h1, h2, hm, haddr, Memory.readBytes_drop _ _ (by omega)]

/-- PARSE, issued where a whole chunk remains, produces it (R127, R131). -/
theorem State.Ready.issue_parse_chunk (h : s.Ready) (hs : s.SourceOk) (he : ¬ Exhausted s.restBytes) :
    ∃ bad, s.issue .parse = .next ((s.accept (encode .parse)).parseChunk (s.mem.readBytes s.regs.srcAddr 8)
      (be32At s.restBytes (8 + (be32At s.restBytes 0).toNat)) bad) := by
  set u := s.accept (encode .parse) with hu
  have h12 : 8 + (be32At s.restBytes 0).toNat + 4 ≤ s.restBytes.length := by
    unfold Exhausted at he
    omega
  have hsize : u.parseSize = (be32At s.restBytes 0).toNat := h.parseSize_accept (by omega) _
  have hhead : u.engineBytes s.regs.srcAddr 8 = s.mem.readBytes s.regs.srcAddr 8 := h.engineBytes_accept _ _ _
  have hfield : u.engineBytes (s.regs.srcAddr + 8 + u.parseSize) 4 =
      s.mem.readBytes (s.regs.srcAddr + (8 + (be32At s.restBytes 0).toNat)) 4 := by
    rw [hsize, Nat.add_assoc]
    exact h.engineBytes_accept _ _ _
  have hcrc : u.parseCrc = be32At s.restBytes (8 + (be32At s.restBytes 0).toNat) :=
    (congrArg (be32At · 0) hfield).trans (s.be32At_part (by decide) h12)
  refine ⟨u.operands.verifyEn && u.parseBad, ?_⟩
  rw [← hhead, ← hcrc]
  refine execParse_of_chunk (s := u) hs.range (by rw [hsize, hu, State.parseRem_accept]; omega)
    (hs.usable_rest (k := 0) (by decide) (by omega)) ?_ fun _ => ?_
  · rw [hsize, Nat.add_assoc]
    exact hs.usable_rest (by decide) h12
  · rw [hsize]
    rcases Nat.eq_zero_or_pos (be32At s.restBytes 0).toNat with hz | hpos
    · rw [hz]
      exact ⟨rfl, rfl⟩
    · exact hs.usable_rest hpos (by omega)

/-- The chunk registers that PARSE writes stand for the chunk at the start of the remaining bytes (R121, R131). -/
theorem State.Ready.parsedOne (h : s.Ready) (hs : s.SourceOk) (he : ¬ Exhausted s.restBytes) :
    ∃ t, s.issue .parse = .next t ∧ ParsedOne s t := by
  obtain ⟨bad, hissue⟩ := h.issue_parse_chunk hs he
  obtain ⟨hready, hplat⟩ := h.issue hissue
  have hend := State.cursor_le_of_chunk he
  have hlen := s.restBytes_length
  have hr := hs.range
  have hlt := s.regs.srcLen.isLt
  have haddr : s.regs.srcAddr = s.regs.srcBase.toNat + s.regs.srcCur.toNat := rfl
  unfold Exhausted at he
  have hsize : be32At (s.mem.readBytes s.regs.srcAddr 8) 0 = be32At s.restBytes 0 :=
    s.be32At_part (k := 0) (by decide) (by omega)
  have htype : be32At (s.mem.readBytes s.regs.srcAddr 8) 4 = be32At s.restBytes 4 :=
    s.be32At_part (k := 0) (j := 4) (by decide) (by omega)
  have hdata : s.mem.readBytes (s.regs.srcAddr + 8) (be32At s.restBytes 0).toNat =
      (s.restBytes.drop 8).take (be32At s.restBytes 0).toNat := s.readBytes_part (by omega)
  have hend' := hend
  rw [headChunk_length] at hend'
  refine ⟨_, hissue, ?_⟩
  set t := (s.accept (encode .parse)).parseChunk (s.mem.readBytes s.regs.srcAddr 8)
    (be32At s.restBytes (8 + (be32At s.restBytes 0).toNat)) bad with ht
  have hdaddr : t.regs.chDaddr.toNat = s.regs.srcAddr + 8 := by
    have hmod : t.regs.chDaddr.toNat = (s.regs.srcAddr + 8) % 2 ^ 32 := rfl
    rw [hmod, Nat.mod_eq_of_lt (by omega)]
  have hcursor : t.regs.srcCur.toNat = s.regs.srcCur.toNat + (headChunk s.restBytes).length := by
    have hmod : t.regs.srcCur.toNat =
        (s.regs.srcCur.toNat + 12 + (be32At (s.mem.readBytes s.regs.srcAddr 8) 0).toNat) % 2 ^ 32 := rfl
    rw [hmod, hsize, headChunk_length, Nat.mod_eq_of_lt (by omega), Nat.add_assoc]
  have hchunk : t.recordChunk.chunk s.mem = headChunk s.restBytes := by
    have hfields : t.recordChunk.chunk s.mem = ⟨be32At (s.mem.readBytes s.regs.srcAddr 8) 0,
        be32At (s.mem.readBytes s.regs.srcAddr 8) 4,
        s.mem.readBytes t.regs.chDaddr.toNat (be32At (s.mem.readBytes s.regs.srcAddr 8) 0).toNat,
        be32At s.restBytes (8 + (be32At s.restBytes 0).toNat)⟩ := rfl
    rw [hfields, hdaddr, hsize, htype, hdata]
    rfl
  exact {
    same := ⟨hready, hplat, rfl, rfl, rfl, rfl, rfl⟩
    stop := rfl
    chunk := hchunk
    inside := by
      have hrec : t.recordChunk.size.toNat = (be32At s.restBytes 0).toNat := congrArg BitVec.toNat hsize
      have hrec' : t.recordChunk.daddr.toNat = s.regs.srcAddr + 8 := hdaddr
      refine ⟨?_, ?_⟩ <;> omega
    cursor := hcursor
    rest := State.restBytes_of_cursor (s := s) (t := t) rfl rfl rfl hcursor hend }

/-- What the PARSE loop leaves: STOP = 1 without an error, the records, the cursor behind their chunks, and all else as it was
(R137, R138). -/
structure ParsedAll (s t : State) (recs : List ChunkRegs) : Prop where
  same : SameBuffers s t
  stop : t.status.stop = true
  ok : t.status.errcode = .ok
  inside : ∀ c ∈ recs, s.HoldsPayload c
  cursor : t.regs.srcCur.toNat = s.regs.srcCur.toNat + chunksLength (recs.map (ChunkRegs.chunk s.mem))

theorem State.HoldsPayload.of_same {t : State} (h : SameBuffers s t) {c : ChunkRegs} (hc : t.HoldsPayload c) :
    s.HoldsPayload c := by
  unfold State.HoldsPayload at hc ⊢
  rwa [h.srcBase, h.srcLen] at hc

/-- The PARSE loop records the split of the remaining bytes (R137). -/
theorem parseLoop_eq {fuel : Nat} (h : s.Ready) (hs : s.SourceOk) (hf : s.restBytes.length / 12 < fuel) {passes : Nat}
    (hp : s.restBytes.length ≤ passes) :
    ∃ recs t, parseLoop fuel s = (recs, some t) ∧
      recs.map (ChunkRegs.chunk s.mem) = splitFrom passes s.restBytes ∧ ParsedAll s t recs := by
  induction fuel generalizing s passes with
  | zero => omega
  | succ fuel ih =>
    by_cases he : Exhausted s.restBytes
    · have hissue := h.issue_parse_exhausted hs he
      obtain ⟨hready, hplat⟩ := h.issue hissue
      refine ⟨[], _, by rw [parseLoop, hissue]; exact if_pos rfl, by rw [splitFrom_of_exhausted he]; rfl, ?_⟩
      exact ⟨⟨hready, hplat, rfl, rfl, rfl, rfl, rfl⟩, rfl, rfl, by simp, rfl⟩
    · obtain ⟨t, hissue, hone⟩ := h.parsedOne hs he
      have hlen : t.restBytes.length = s.restBytes.length - (headChunk s.restBytes).length := by
        rw [hone.rest, List.length_drop]
      have h12 : 12 ≤ (headChunk s.restBytes).length := by
        rw [headChunk_length]
        omega
      have hle : (headChunk s.restBytes).length ≤ s.restBytes.length := by
        unfold Exhausted at he
        rw [headChunk_length]
        omega
      obtain ⟨passes, rfl⟩ : ∃ p, passes = p + 1 := Nat.exists_eq_add_one.2 (by omega)
      obtain ⟨recs, u, hloop, hsplit, hall⟩ :=
        ih hone.same.ready (hone.same.sourceOk hs) (by omega) (passes := passes) (by omega)
      rw [hone.same.mem] at hsplit
      refine ⟨t.recordChunk :: recs, u, ?_, ?_, ?_⟩
      · rw [parseLoop, hissue]
        simp [hone.stop, hloop]
      · rw [splitFrom_of_chunk he, List.map_cons, hone.chunk, hsplit, hone.rest]
      · refine ⟨hone.same.trans hall.same, hall.stop, hall.ok, fun c hc => ?_, ?_⟩
        · rcases List.mem_cons.1 hc with rfl | hc
          · exact hone.inside
          · exact (hall.inside c hc).of_same hone.same
        · rw [hall.cursor, hone.cursor, hone.same.mem, List.map_cons, chunksLength_cons, hone.chunk, Nat.add_assoc]

end ParseLoop

/-- The split of a buffer starts at byte 8, where the cursor stands (R137). -/
theorem State.restBytes_of_start {s : State} (h8 : s.regs.srcCur = 8) :
    s.restBytes = (s.mem.readBytes s.regs.srcBase.toNat s.regs.srcLen.toNat).drop 8 := by
  have hcur : s.regs.srcCur.toNat = 8 := by rw [h8]; rfl
  have haddr : s.regs.srcAddr = s.regs.srcBase.toNat + 8 := by rw [OperandRegs.srcAddr, hcur]
  rw [State.restBytes, hcur, haddr, remaining]
  split
  · next hle => rw [Memory.readBytes_drop _ _ hle]
  · next hlt => rw [List.drop_eq_nil_of_le (by simp; omega)]; rfl

/-- The PARSE loop from the start of the buffer, within floor((N - 8) / 12) + 1 commands (R137, R138). -/
theorem parseLoop_from_start {s : State} (h : s.Ready) (hs : s.SourceOk) (h8 : s.regs.srcCur = 8) :
    ∃ recs t, parseLoop ((s.regs.srcLen.toNat - 8) / 12 + 1) s = (recs, some t) ∧
      recs.map (ChunkRegs.chunk s.mem) =
        splitBytes (s.mem.readBytes s.regs.srcBase.toNat s.regs.srcLen.toNat) ∧ ParsedAll s t recs := by
  have hrest := State.restBytes_of_start h8
  have hlen : s.restBytes.length = s.regs.srcLen.toNat - 8 := by simp [hrest]
  have hloop := parseLoop_eq h hs (fuel := (s.regs.srcLen.toNat - 8) / 12 + 1) (by rw [hlen]; omega)
    (passes := s.regs.srcLen.toNat) (by omega)
  rw [hrest] at hloop
  simpa [splitBytes] using hloop

/-- Settles O57: by induction on the passes, the chunk at the start of the remaining bytes each time. -/
theorem parseLoopIsSplit : Obligations.ParseLoopIsSplit := by
  intro s hi hq h8 base n hr hu cs
  obtain ⟨recs, t, hloop, hsplit, hall⟩ := parseLoop_from_start ⟨hi, hq⟩ ⟨hr, hu⟩ h8
  refine ⟨t, by rw [hloop], by rw [hloop]; exact hsplit, hall.stop, hall.ok, ?_, fun x => by rw [hall.same.mem]⟩
  rw [hall.cursor, hsplit, h8]
  rfl

/-! ## The join loop -/

theorem ChunkRegs.chunk_bytes_length (m : Memory) (c : ChunkRegs) : (c.chunk m).bytes.length = (c.chunk m).length := by
  simp [ChunkRegs.chunk, Chunk.bytes, Chunk.length]

/-- Room for n bytes of ordinary memory at the write cursor (R140, R143). -/
structure State.RoomFor (s : State) (n : Nat) : Prop where
  range : s.regs.dstBase.toNat + s.regs.dstLen.toNat ≤ 2 ^ 32
  fits : s.regs.dstCur.toNat + n ≤ s.regs.dstLen.toNat
  usable : s.Usable s.regs.dstAddr n

/-- t is s after a command wrote bs at the write cursor and completed without an error (R140, R143). -/
structure Emitted (s t : State) (bs : List Byte) : Prop where
  ready : t.Ready
  platform : t.platform = s.platform
  ok : t.status.errcode = .ok
  mem : t.mem = s.mem.writeBytes s.regs.dstAddr bs
  dstBase : t.regs.dstBase = s.regs.dstBase
  dstLen : t.regs.dstLen = s.regs.dstLen
  cursor : t.regs.dstCur.toNat = s.regs.dstCur.toNat + bs.length

section EmitLoop

variable {s t : State} {bs : List Byte}

theorem Emitted.dstAddr (h : Emitted s t bs) : t.regs.dstAddr = s.regs.dstAddr + bs.length := by
  rw [OperandRegs.dstAddr, h.dstBase, h.cursor, ← Nat.add_assoc]
  rfl

theorem Emitted.mem_wf (h : Emitted s t bs) (hm : s.mem.wf) : t.mem.wf := by
  rw [h.mem]
  exact Memory.writeBytes_wf bs hm _

theorem Emitted.readBytes (h : Emitted s t bs) (hm : s.mem.wf) : t.mem.readBytes s.regs.dstAddr bs.length = bs := by
  rw [h.mem, Memory.readBytes_writeBytes_self hm]

theorem Emitted.sameMemoryOutside (h : Emitted s t bs) : s.SameMemoryOutside t s.regs.dstAddr bs.length := fun x hx => by
  rw [h.mem, Memory.read_writeBytes_of_outside bs hx]

/-- The room that is left (R140, R143). -/
theorem Emitted.roomFor (h : Emitted s t bs) {n : Nat} (hr : s.RoomFor (bs.length + n)) : t.RoomFor n where
  range := by
    rw [h.dstBase, h.dstLen]
    exact hr.range
  fits := by
    rw [h.cursor, h.dstLen, Nat.add_assoc]
    exact hr.fits
  usable := by
    rw [h.dstAddr]
    exact (hr.usable.part (by omega) (by omega)).of_platform h.platform

/-- Where nothing races, the bytes an accepted command stores are the bytes given (R65). -/
theorem State.Ready.engineStore_accept_mem (h : s.Ready) (w : Word) (a : Nat) (bs : List Byte) :
    ((s.accept w).engineStore a bs).mem = s.mem.writeBytes a bs := by
  rw [State.engineStore_mem, State.landed_of_quiet (s := s.accept w) ⟨rfl, h.quiet.2⟩]
  rfl

/-- EMITSIG, issued where there is room (R140). -/
theorem State.Ready.issue_emitsig (h : s.Ready) (hr : s.RoomFor 8) :
    ∃ t, s.issue .emitsig = .next t ∧ Emitted s t signature := by
  have hissue : s.issue .emitsig = _ :=
    execEmitsig_of_usable (s := s.accept (encode .emitsig)) ((emitsigCheck_none_iff s.regs).2 ⟨hr.range, hr.fits⟩) hr.usable
  obtain ⟨hready, hplat⟩ := h.issue hissue
  exact ⟨_, hissue, hready, hplat, rfl, h.engineStore_accept_mem _ _ _, rfl, rfl, OperandRegs.toNat_dstCur_advanced hr.fits⟩

/-- The payload of a chunk is usable and clear of the n bytes at the write cursor, if it is not empty (R146). -/
structure State.PayloadClear (s : State) (c : ChunkRegs) (lo hi : Nat) : Prop where
  range : c.daddr.toNat + c.size.toNat ≤ 2 ^ 32
  usable : s.Usable c.daddr.toNat c.size.toNat
  clear : c.size = 0 ∨ c.daddr.toNat + c.size.toNat ≤ lo ∨ hi ≤ c.daddr.toNat

/-- EMIT, issued with a chunk loaded and room for it, writes the chunk (R143, R149). -/
theorem State.Ready.issue_emit (h : s.Ready) {c : ChunkRegs} (hr : s.RoomFor (c.chunk s.mem).length) {lo hi : Nat}
    (hc : s.PayloadClear c lo hi) (hlo : lo ≤ s.regs.dstAddr) (hhi : s.regs.dstAddr + (c.chunk s.mem).length ≤ hi) :
    ∃ t, (s.loadChunk c).issue .emit = .next t ∧ Emitted s t (c.chunk s.mem).bytes := by
  set u := (s.loadChunk c).accept (encode .emit) with hu
  have hload : (s.loadChunk c).Ready := ⟨h.idle, h.quiet⟩
  have hclear : u.operands.regs.overlaps = false := by
    refine (OperandRegs.overlaps_eq_false_iff _).2 ?_
    rcases hc.clear with hz | hl | hh
    · exact .inl hz
    · exact .inr (.inr (Nat.le_trans hl hlo))
    · exact .inr (.inl (Nat.le_trans hhi hh))
  have hn : emitCheck u.operands.regs = none :=
    (emitCheck_none_iff _).2 ⟨hr.range, hc.range, rfl, hr.fits, hclear⟩
  have hbytes : u.emitBytes = (c.chunk s.mem).bytes := by
    have hdata : u.engineBytes c.daddr.toNat c.size.toNat = s.mem.readBytes c.daddr.toNat c.size.toNat :=
      hload.engineBytes_accept _ _ _
    rw [Chunk.bytes, ChunkRegs.chunk, ← hdata]
    rfl
  have hissue : (s.loadChunk c).issue .emit = _ := execEmit_of_usable (s := u) hn hc.usable hr.usable
  obtain ⟨hready, hplat⟩ := hload.issue hissue
  refine ⟨_, hissue, hready, hplat, rfl, ?_, rfl, rfl, ?_⟩
  · rw [← hbytes]
    exact hload.engineStore_accept_mem _ _ _
  · rw [ChunkRegs.chunk_bytes_length]
    exact OperandRegs.toNat_dstCur_advanced hr.fits

/-- A payload clear of the range in which memory changed still holds the chunk's data. -/
theorem State.PayloadClear.chunk_eq {c : ChunkRegs} {lo hi a n : Nat} (hc : s.PayloadClear c lo hi)
    (h : s.SameMemoryOutside t a n) (hlo : lo ≤ a) (hhi : a + n ≤ hi) : c.chunk t.mem = c.chunk s.mem := by
  have hdata : t.mem.readBytes c.daddr.toNat c.size.toNat = s.mem.readBytes c.daddr.toNat c.size.toNat := by
    refine Memory.readBytes_congr fun x h1 h2 => h x ?_
    rcases hc.clear with hz | hl | hh
    · simp [hz] at h2
      omega
    · omega
    · omega
  rw [ChunkRegs.chunk, ChunkRegs.chunk, hdata]

/-- The EMITs write the chunks' bytes one after the other and nothing else (R149). -/
theorem emitLoop_eq {cs : List ChunkRegs} (h : s.Ready) (hm : s.mem.wf)
    (hr : s.RoomFor (chunksLength (cs.map (ChunkRegs.chunk s.mem)))) {lo hi : Nat} (hlo : lo ≤ s.regs.dstAddr)
    (hhi : s.regs.dstAddr + chunksLength (cs.map (ChunkRegs.chunk s.mem)) ≤ hi) (hcs : ∀ c ∈ cs, s.PayloadClear c lo hi) :
    ∃ t, emitLoop cs s = some t ∧
      t.regs.dstCur.toNat = s.regs.dstCur.toNat + chunksLength (cs.map (ChunkRegs.chunk s.mem)) ∧
      t.mem.readBytes s.regs.dstAddr (chunksLength (cs.map (ChunkRegs.chunk s.mem))) =
        (cs.map (ChunkRegs.chunk s.mem)).flatMap Chunk.bytes ∧
      s.SameMemoryOutside t s.regs.dstAddr (chunksLength (cs.map (ChunkRegs.chunk s.mem))) := by
  induction cs generalizing s with
  | nil => exact ⟨s, rfl, rfl, rfl, fun _ _ => rfl⟩
  | cons c cs ih =>
    rw [List.map_cons, chunksLength_cons] at hr hhi ⊢
    have hlen := c.chunk_bytes_length s.mem
    have hc := hcs c List.mem_cons_self
    have hone : s.RoomFor (c.chunk s.mem).length :=
      ⟨hr.range, Nat.le_trans (by omega) hr.fits, hr.usable.part le_rfl (by omega)⟩
    obtain ⟨t, hissue, he⟩ := h.issue_emit hone hc hlo (by omega)
    have hmap : cs.map (ChunkRegs.chunk t.mem) = cs.map (ChunkRegs.chunk s.mem) := by
      refine List.map_congr_left fun d hd => ?_
      exact (hcs d (List.mem_cons_of_mem _ hd)).chunk_eq he.sameMemoryOutside hlo (by omega)
    obtain ⟨u, hloop, hcur, hread, hout⟩ := ih he.ready (he.mem_wf hm) (by rw [hmap]; exact he.roomFor (by rwa [hlen]))
      (by rw [he.dstAddr]; omega) (by rw [hmap, he.dstAddr]; omega) fun d hd =>
        have hd' := hcs d (List.mem_cons_of_mem _ hd)
        ⟨hd'.range, hd'.usable.of_platform he.platform, hd'.clear⟩
    rw [hmap, he.dstAddr, hlen] at hread hout
    rw [hmap, he.cursor, hlen] at hcur
    have hfirst : u.mem.readBytes s.regs.dstAddr (c.chunk s.mem).length = (c.chunk s.mem).bytes := by
      rw [← hlen, ← he.readBytes hm]
      simp only [Memory.readBytes_length]
      exact Memory.readBytes_congr fun x _ hx => hout x (.inl (by omega))
    refine ⟨u, ?_, by rw [hcur, Nat.add_assoc], ?_, fun x hx => ?_⟩
    · simp [emitLoop, hissue, he.ok, hloop]
    · rw [Memory.readBytes_append, hfirst, hread, List.flatMap_cons]
    · rw [hout x (by omega), he.sameMemoryOutside x (by omega)]

/-- The join loop from the start of the destination: EMITSIG, then the EMITs (R149, R150). -/
theorem joinLoop_eq {cs : List ChunkRegs} (h : s.Ready) (hm : s.mem.wf)
    (hr : s.regs.dstBase.toNat + s.regs.dstLen.toNat ≤ 2 ^ 32)
    (hf : 8 + chunksLength (cs.map (ChunkRegs.chunk s.mem)) ≤ s.regs.dstLen.toNat)
    (hu : s.Usable s.regs.dstBase.toNat (8 + chunksLength (cs.map (ChunkRegs.chunk s.mem))))
    (hcs : ∀ c ∈ cs, s.PayloadClear c s.regs.dstBase.toNat
      (s.regs.dstBase.toNat + (8 + chunksLength (cs.map (ChunkRegs.chunk s.mem))))) :
    ∃ t, joinLoop cs s = some t ∧ t.regs.dstCur.toNat = 8 + chunksLength (cs.map (ChunkRegs.chunk s.mem)) ∧
      t.mem.readBytes s.regs.dstBase.toNat (8 + chunksLength (cs.map (ChunkRegs.chunk s.mem))) =
        joinBytes (cs.map (ChunkRegs.chunk s.mem)) ∧
      s.SameMemoryOutside t s.regs.dstBase.toNat (8 + chunksLength (cs.map (ChunkRegs.chunk s.mem))) := by
  set s0 : State := { s with regs := { s.regs with dstCur := 0 } } with hs0
  have h0 : s0.Ready := ⟨h.idle, h.quiet⟩
  have hroom : s0.RoomFor (8 + chunksLength (cs.map (ChunkRegs.chunk s.mem))) := ⟨hr, by simpa [hs0] using hf, hu⟩
  have hroom8 : s.Usable s.regs.dstBase.toNat 8 := hu.part le_rfl (by omega)
  obtain ⟨t, hissue, he⟩ := h0.issue_emitsig ⟨hr, Nat.le_trans (by simp [hs0]) hf, hroom8⟩
  have haddr : t.regs.dstAddr = s.regs.dstBase.toNat + 8 := he.dstAddr
  have hcur0 : t.regs.dstCur.toNat = 8 := he.cursor
  have hout0 : s.SameMemoryOutside t s.regs.dstBase.toNat 8 := he.sameMemoryOutside
  have hsig : t.mem.readBytes s.regs.dstBase.toNat 8 = signature := he.readBytes hm
  have hmap : cs.map (ChunkRegs.chunk t.mem) = cs.map (ChunkRegs.chunk s.mem) :=
    List.map_congr_left fun d hd => (hcs d hd).chunk_eq hout0 le_rfl (by omega)
  obtain ⟨u, hloop, hcur, hread, hout⟩ := emitLoop_eq (cs := cs) he.ready (he.mem_wf hm)
    (by rw [hmap]; exact he.roomFor hroom) (lo := s.regs.dstBase.toNat) (by omega)
    (hi := s.regs.dstBase.toNat + (8 + chunksLength (cs.map (ChunkRegs.chunk s.mem)))) (by rw [hmap]; omega)
    fun d hd => ⟨(hcs d hd).range, (hcs d hd).usable.of_platform he.platform, (hcs d hd).clear⟩
  rw [hmap, haddr] at hread hout
  rw [hmap, hcur0] at hcur
  have hfirst : u.mem.readBytes s.regs.dstBase.toNat 8 = signature :=
    (Memory.readBytes_congr fun x _ hx => hout x (.inl hx)).trans hsig
  refine ⟨u, ?_, hcur, ?_, fun x hx => ?_⟩
  · simp only [joinLoop, ← hs0, hissue, he.ok, if_true, hloop]
  · rw [Memory.readBytes_append, hfirst, hread]
    rfl
  · rw [hout x (by omega), hout0 x (by omega)]

end EmitLoop

/-- Settles O58: the signature, then each chunk behind the one before. -/
theorem emitLoopIsJoin : Obligations.EmitLoopIsJoin := by
  intro s cs hi hq hm base total hr hf hu hcs
  exact joinLoop_eq ⟨hi, hq⟩ hm hr hf hu fun c hc =>
    have ⟨hrange, husable, hclear⟩ := hcs c hc
    ⟨hrange, husable, hclear⟩

/-- Settles O59: the loop's records are the split of the buffer, and their join, from a source that stays, is the buffer. -/
theorem splitThenJoinIsIdentity : Obligations.SplitThenJoinIsIdentity := by
  intro s hi hq hm h8 src n dst buf hr hu hdr hf hdu hclear hsig hwhole
  obtain ⟨recs, t, hparse, hsplit, hall⟩ := parseLoop_from_start ⟨hi, hq⟩ ⟨hr, hu⟩ h8
  have hsame := hall.same
  have hmap : recs.map (ChunkRegs.chunk t.mem) = splitBytes buf := by rw [hsame.mem]; exact hsplit
  have htotal : 8 + chunksLength (recs.map (ChunkRegs.chunk t.mem)) = n := by rw [hmap]; exact hwhole
  have hdst : t.regs.dstBase.toNat = dst := by rw [hsame.dstBase]
  have hjoin := joinLoop_eq (s := t) (cs := recs) hsame.ready (by rw [hsame.mem]; exact hm)
    (by rw [hsame.dstBase, hsame.dstLen]; exact hdr) (by rw [htotal, hsame.dstLen]; exact hf)
    (by rw [htotal, hdst]; exact hdu.of_platform hsame.platform) fun c hc => by
      obtain ⟨h1, h2⟩ := hall.inside c hc
      refine ⟨by omega, (hu.part h1 h2).of_platform hsame.platform, ?_⟩
      rw [htotal, hdst]
      omega
  rw [htotal, hmap, hdst] at hjoin
  obtain ⟨u, hloop, hcur, hread, -⟩ := hjoin
  refine ⟨t, u, by rw [hparse], by rw [hparse]; exact hloop, hcur, ?_⟩
  rw [hread]
  exact joinBytes_splitBytes hsig (by rw [hwhole]; exact (Memory.readBytes_length _ _ _).symm)

end Sys2Proof.Machine
end
